-- ==== Sys2Proof/Word.lean ====
section
/-! DEFINITION. The widths of the machine's values (spec/00_scope.md R5, R6): every value is unsigned. -/

namespace Sys2Proof

/-- `u8`: a memory byte, a V register, a timer. -/
abbrev Byte := BitVec 8

/-- `u16`: an instruction word, I, PC, a stack entry. -/
abbrev Word := BitVec 16

/-- The 12-bit address operand `nnn`. -/
abbrev Addr := BitVec 12

/-- The number of a V register, 0 to 15; VF is 15 (spec/10_state.md R21). -/
abbrev Reg := Fin 16

end Sys2Proof
end

