-- ==== Sys2Proof/Config.lean ====
section
/-! DEFINITION. What is fixed for the machine (spec/00_scope.md R5), and the free values: constants without a body,
of which nothing can be proved. -/

namespace Sys2Proof.Config

/-- `MEM_SIZE`: the bytes of the one memory. -/
@[simp] abbrev memSize : Nat := 4096

/-- `PROG_BASE`: where a program is loaded, and PC after reset. -/
@[simp] abbrev progBase : Nat := 0x200

/-- `MAX_ROM`: the longest program `LoadProgram` accepts, 4096 - 0x200 bytes. -/
@[simp] abbrev maxRom : Nat := 3584

/-- The highest PC at which a fetch is in bounds (spec/20_memory.md R53). -/
@[simp] abbrev lastFetch : Nat := 0xFFE

/-- `FONT_BASE`: OPEN in the spec, 0 to 0x1B0 (spec/10_state.md R31, decision D7). DESIGN CHOICE: a constant without a
body, so that nothing rests on its value. Safe. Log 8. -/
opaque fontBase : Fin 0x1B1

/-- The eight glyphs 0 to 7, five rows each (spec/10_state.md R31). -/
def fontLow : List Byte :=
  [0xF0, 0x90, 0x90, 0x90, 0xF0,   0x20, 0x60, 0x20, 0x20, 0x70,
   0xF0, 0x10, 0xF0, 0x80, 0xF0,   0xF0, 0x10, 0xF0, 0x10, 0xF0,
   0x90, 0x90, 0xF0, 0x10, 0x10,   0xF0, 0x80, 0xF0, 0x10, 0xF0,
   0xF0, 0x80, 0xF0, 0x90, 0xF0,   0xF0, 0x10, 0x20, 0x40, 0x40]

/-- The eight glyphs 8 to F, five rows each (spec/10_state.md R31). -/
def fontHigh : List Byte :=
  [0xF0, 0x90, 0xF0, 0x90, 0xF0,   0xF0, 0x90, 0xF0, 0x10, 0xF0,
   0xF0, 0x90, 0xF0, 0x90, 0x90,   0xE0, 0x90, 0xE0, 0x90, 0xE0,
   0xF0, 0x80, 0x80, 0x80, 0xF0,   0xE0, 0x90, 0x90, 0x90, 0xE0,
   0xF0, 0x80, 0xF0, 0x80, 0xF0,   0xF0, 0x80, 0xF0, 0x80, 0x80]

/-- `FONT_DATA`: the 80 bytes of spec/10_state.md R31, top row of each glyph first. PRESUMED by the spec itself (from
general knowledge, its K1); unsafe for a claim about drawn digit shapes. Log 9. -/
def fontData : List Byte := fontLow ++ fontHigh

/-- The whole 60 Hz periods of the `n`-th `Step` whose inputs are not written down (spec/40_step_cycle.md R91). DESIGN
CHOICE, safe: any value. Log 2. -/
opaque freeTicks : Nat → Nat

/-- The random byte delivered to the `n`-th such `Step` (spec/45_keys_timers_random.md R191). DESIGN CHOICE, safe: any
value. Log 4. -/
opaque freeRnd : Nat → Byte

/-- KEYS as the host has left it when the `n`-th such `Step` begins (spec/10_state.md R29). DESIGN CHOICE, safe: any
value. Log 3. -/
opaque freeKeys : Nat → BitVec 16

/-- The unspecified PC after a fatal condition in the `n`-th `Step` (spec/60_exceptions.md R206). DESIGN CHOICE, safe:
any value. Log 5. -/
opaque freePc : Nat → Word

end Sys2Proof.Config
end

