-- ==== Sys2Proof/Syntax.lean ====
section
/-! DEFINITION. The 34 instructions of the opcode table (spec/30_encoding.md R74), one constructor each, in the table's
order. Operands carry the widths of their fields (R71): a register number, `nn`, `nnn`, the sprite height `n`. -/

namespace Sys2Proof

/-- An instruction. `shr` and `shl` keep the ignored field `y`, so that no bit of the word is dropped. -/
inductive Instr where
  /-- 00E0 -/
  | cls
  /-- 00EE -/
  | ret
  /-- 1nnn -/
  | jp (nnn : Addr)
  /-- 2nnn -/
  | call (nnn : Addr)
  /-- 3xnn -/
  | seImm (x : Reg) (nn : Byte)
  /-- 4xnn -/
  | sneImm (x : Reg) (nn : Byte)
  /-- 5xy0 -/
  | seReg (x y : Reg)
  /-- 6xnn -/
  | ldImm (x : Reg) (nn : Byte)
  /-- 7xnn -/
  | addImm (x : Reg) (nn : Byte)
  /-- 8xy0 -/
  | ldReg (x y : Reg)
  /-- 8xy1 -/
  | orReg (x y : Reg)
  /-- 8xy2 -/
  | andReg (x y : Reg)
  /-- 8xy3 -/
  | xorReg (x y : Reg)
  /-- 8xy4 -/
  | addReg (x y : Reg)
  /-- 8xy5 -/
  | sub (x y : Reg)
  /-- 8xy6 -/
  | shr (x y : Reg)
  /-- 8xy7 -/
  | subn (x y : Reg)
  /-- 8xyE -/
  | shl (x y : Reg)
  /-- 9xy0 -/
  | sneReg (x y : Reg)
  /-- Annn -/
  | ldI (nnn : Addr)
  /-- Bnnn -/
  | jpV0 (nnn : Addr)
  /-- Cxnn -/
  | rnd (x : Reg) (nn : Byte)
  /-- Dxyn: `n` counts sprite rows, 0 to 15 -/
  | drw (x y : Reg) (n : Fin 16)
  /-- Ex9E -/
  | skp (x : Reg)
  /-- ExA1 -/
  | sknp (x : Reg)
  /-- Fx07 -/
  | ldFromDt (x : Reg)
  /-- Fx0A -/
  | ldKey (x : Reg)
  /-- Fx15 -/
  | ldDt (x : Reg)
  /-- Fx18 -/
  | ldSt (x : Reg)
  /-- Fx1E -/
  | addI (x : Reg)
  /-- Fx29 -/
  | ldFont (x : Reg)
  /-- Fx33 -/
  | ldBcd (x : Reg)
  /-- Fx55 -/
  | storeRegs (x : Reg)
  /-- Fx65 -/
  | loadRegs (x : Reg)
deriving DecidableEq, Repr

/-- The mnemonic of an instruction as spec/opcode_table.json spells it. -/
def Instr.mnemonic : Instr → String
  | .cls => "CLS"
  | .ret => "RET"
  | .jp _ => "JP_nnn"
  | .call _ => "CALL_nnn"
  | .seImm _ _ => "SE_Vx__nn"
  | .sneImm _ _ => "SNE_Vx__nn"
  | .seReg _ _ => "SE_Vx__Vy"
  | .ldImm _ _ => "LD_Vx__nn"
  | .addImm _ _ => "ADD_Vx__nn"
  | .ldReg _ _ => "LD_Vx__Vy"
  | .orReg _ _ => "OR_Vx__Vy"
  | .andReg _ _ => "AND_Vx__Vy"
  | .xorReg _ _ => "XOR_Vx__Vy"
  | .addReg _ _ => "ADD_Vx__Vy"
  | .sub _ _ => "SUB_Vx__Vy"
  | .shr _ _ => "SHR_Vx"
  | .subn _ _ => "SUBN_Vx__Vy"
  | .shl _ _ => "SHL_Vx"
  | .sneReg _ _ => "SNE_Vx__Vy"
  | .ldI _ => "LD_I__nnn"
  | .jpV0 _ => "JP_V0__nnn"
  | .rnd _ _ => "RND_Vx__nn"
  | .drw _ _ _ => "DRW_Vx__Vy__n"
  | .skp _ => "SKP_Vx"
  | .sknp _ => "SKNP_Vx"
  | .ldFromDt _ => "LD_Vx__DT"
  | .ldKey _ => "LD_Vx__K"
  | .ldDt _ => "LD_DT__Vx"
  | .ldSt _ => "LD_ST__Vx"
  | .addI _ => "ADD_I__Vx"
  | .ldFont _ => "LD_F__Vx"
  | .ldBcd _ => "LD_B__Vx"
  | .storeRegs _ => "LD__I___Vx"
  | .loadRegs _ => "LD_Vx___I"

end Sys2Proof
end

