-- ==== Sys2Proof/WellFormed.lean ====
section
/-! DEFINITION. What is well-formed. The bounds of an instruction's operands are in their types, so every `Instr` is
well-formed; what can be ill-formed is a word that matches no row of the opcode table (spec/30_encoding.md R74, R76), a
program that does not fit (spec/60_exceptions.md R205) and a key index above 15 (spec/60_exceptions.md R214). -/

namespace Sys2Proof

/-- One row of the opcode map (spec/30_encoding.md R74): a word `w` selects it when `w &&& mask = value`. -/
structure OpcodeRow where
  mnemonic : String
  mask     : Word
  value    : Word
deriving DecidableEq, Repr

/-- Rows 1 to 9: 00E0 to 7xnn. -/
def opcodeRowsLow : List OpcodeRow :=
  [⟨"CLS", 0xFFFF, 0x00E0⟩, ⟨"RET", 0xFFFF, 0x00EE⟩, ⟨"JP_nnn", 0xF000, 0x1000⟩, ⟨"CALL_nnn", 0xF000, 0x2000⟩,
   ⟨"SE_Vx__nn", 0xF000, 0x3000⟩, ⟨"SNE_Vx__nn", 0xF000, 0x4000⟩, ⟨"SE_Vx__Vy", 0xF00F, 0x5000⟩,
   ⟨"LD_Vx__nn", 0xF000, 0x6000⟩, ⟨"ADD_Vx__nn", 0xF000, 0x7000⟩]

/-- Rows 10 to 18: family 8. -/
def opcodeRowsAlu : List OpcodeRow :=
  [⟨"LD_Vx__Vy", 0xF00F, 0x8000⟩, ⟨"OR_Vx__Vy", 0xF00F, 0x8001⟩, ⟨"AND_Vx__Vy", 0xF00F, 0x8002⟩,
   ⟨"XOR_Vx__Vy", 0xF00F, 0x8003⟩, ⟨"ADD_Vx__Vy", 0xF00F, 0x8004⟩, ⟨"SUB_Vx__Vy", 0xF00F, 0x8005⟩,
   ⟨"SHR_Vx", 0xF00F, 0x8006⟩, ⟨"SUBN_Vx__Vy", 0xF00F, 0x8007⟩, ⟨"SHL_Vx", 0xF00F, 0x800E⟩]

/-- Rows 19 to 25: 9xy0 to ExA1. -/
def opcodeRowsMid : List OpcodeRow :=
  [⟨"SNE_Vx__Vy", 0xF00F, 0x9000⟩, ⟨"LD_I__nnn", 0xF000, 0xA000⟩, ⟨"JP_V0__nnn", 0xF000, 0xB000⟩,
   ⟨"RND_Vx__nn", 0xF000, 0xC000⟩, ⟨"DRW_Vx__Vy__n", 0xF000, 0xD000⟩, ⟨"SKP_Vx", 0xF0FF, 0xE09E⟩,
   ⟨"SKNP_Vx", 0xF0FF, 0xE0A1⟩]

/-- Rows 26 to 34: family F. -/
def opcodeRowsHigh : List OpcodeRow :=
  [⟨"LD_Vx__DT", 0xF0FF, 0xF007⟩, ⟨"LD_Vx__K", 0xF0FF, 0xF00A⟩, ⟨"LD_DT__Vx", 0xF0FF, 0xF015⟩,
   ⟨"LD_ST__Vx", 0xF0FF, 0xF018⟩, ⟨"ADD_I__Vx", 0xF0FF, 0xF01E⟩, ⟨"LD_F__Vx", 0xF0FF, 0xF029⟩,
   ⟨"LD_B__Vx", 0xF0FF, 0xF033⟩, ⟨"LD__I___Vx", 0xF0FF, 0xF055⟩, ⟨"LD_Vx___I", 0xF0FF, 0xF065⟩]

/-- The 34 rows of spec/30_encoding.md R74, in its order. -/
def opcodeTable : List OpcodeRow := opcodeRowsLow ++ opcodeRowsAlu ++ opcodeRowsMid ++ opcodeRowsHigh

/-- Whether a word selects a row. -/
def OpcodeRow.selects (r : OpcodeRow) (w : Word) : Bool := w &&& r.mask == r.value

/-- Whether a word matches a row of the opcode table: the words that are instructions. -/
def wordWellFormed (w : Word) : Bool := opcodeTable.any (·.selects w)

/-- Whether a program image fits program space. -/
def programFits (bytes : List Byte) : Bool := bytes.length ≤ Config.maxRom

/-- Whether a number names one of the sixteen keys. -/
def keyIndexOk (k : Nat) : Bool := k < 16

end Sys2Proof
end

