-- ==== Sys2Proof/Decode.lean ====
section
/-! DEFINITION. The fields of an instruction word (spec/30_encoding.md R71), the decoder as the map by family
(R75), total on all bytes and rejecting by name, and the encoder. -/

namespace Sys2Proof

/-- Why bytes are no instruction. -/
inductive DecodeError where
  /-- The word matches no row of the opcode table (spec/30_encoding.md R76). -/
  | unknownOpcode (w : Word)
  /-- Fewer than two bytes are left (R70). -/
  | truncated
deriving DecidableEq, Repr

/-- `op`, bits 15:12: the opcode family. -/
def opField (w : Word) : BitVec 4 := w.extractLsb' 12 4

/-- `x`, bits 11:8: the first register number. -/
def xField (w : Word) : Reg := ⟨(w.extractLsb' 8 4).toNat, (w.extractLsb' 8 4).isLt⟩

/-- `y`, bits 7:4: the second register number. -/
def yField (w : Word) : Reg := ⟨(w.extractLsb' 4 4).toNat, (w.extractLsb' 4 4).isLt⟩

/-- `n`, bits 3:0: the selector of families 5, 8, 9. -/
def nField (w : Word) : BitVec 4 := w.extractLsb' 0 4

/-- `n` of Dxyn, as the count of rows it is. -/
def rowsField (w : Word) : Fin 16 := ⟨(nField w).toNat, (nField w).isLt⟩

/-- `nn`, bits 7:0: the immediate, and the selector of families E and F. -/
def nnField (w : Word) : Byte := w.extractLsb' 0 8

/-- `nnn`, bits 11:0: the address operand. -/
def nnnField (w : Word) : Addr := w.extractLsb' 0 12

/-- Family 0 decodes the whole word. -/
def decodeFamily0 (w : Word) : Except DecodeError Instr :=
  if w = 0x00E0#16 then .ok .cls
  else if w = 0x00EE#16 then .ok .ret
  else .error (.unknownOpcode w)

/-- Families 5 and 9 decode `n`, which must be 0. -/
def decodeN0 (i : Instr) (w : Word) : Except DecodeError Instr :=
  if nField w = 0x0#4 then .ok i else .error (.unknownOpcode w)

/-- Family 8 decodes `n`. -/
def decodeFamily8 (w : Word) : Except DecodeError Instr :=
  match nField w with
  | 0x0#4 => .ok (.ldReg (xField w) (yField w))
  | 0x1#4 => .ok (.orReg (xField w) (yField w))
  | 0x2#4 => .ok (.andReg (xField w) (yField w))
  | 0x3#4 => .ok (.xorReg (xField w) (yField w))
  | 0x4#4 => .ok (.addReg (xField w) (yField w))
  | 0x5#4 => .ok (.sub (xField w) (yField w))
  | 0x6#4 => .ok (.shr (xField w) (yField w))
  | 0x7#4 => .ok (.subn (xField w) (yField w))
  | 0xE#4 => .ok (.shl (xField w) (yField w))
  | _ => .error (.unknownOpcode w)

/-- Family E decodes `nn`. -/
def decodeFamilyE (w : Word) : Except DecodeError Instr :=
  if nnField w = 0x9E#8 then .ok (.skp (xField w))
  else if nnField w = 0xA1#8 then .ok (.sknp (xField w))
  else .error (.unknownOpcode w)

/-- Family F decodes `nn`. -/
def decodeFamilyF (w : Word) : Except DecodeError Instr :=
  if nnField w = 0x07#8 then .ok (.ldFromDt (xField w))
  else if nnField w = 0x0A#8 then .ok (.ldKey (xField w))
  else if nnField w = 0x15#8 then .ok (.ldDt (xField w))
  else if nnField w = 0x18#8 then .ok (.ldSt (xField w))
  else if nnField w = 0x1E#8 then .ok (.addI (xField w))
  else if nnField w = 0x29#8 then .ok (.ldFont (xField w))
  else if nnField w = 0x33#8 then .ok (.ldBcd (xField w))
  else if nnField w = 0x55#8 then .ok (.storeRegs (xField w))
  else if nnField w = 0x65#8 then .ok (.loadRegs (xField w))
  else .error (.unknownOpcode w)

/-- The instruction of a word (spec/30_encoding.md R75), or `unknownOpcode` (R76). -/
def decodeWord (w : Word) : Except DecodeError Instr :=
  match opField w with
  | 0x0#4 => decodeFamily0 w
  | 0x1#4 => .ok (.jp (nnnField w))
  | 0x2#4 => .ok (.call (nnnField w))
  | 0x3#4 => .ok (.seImm (xField w) (nnField w))
  | 0x4#4 => .ok (.sneImm (xField w) (nnField w))
  | 0x5#4 => decodeN0 (.seReg (xField w) (yField w)) w
  | 0x6#4 => .ok (.ldImm (xField w) (nnField w))
  | 0x7#4 => .ok (.addImm (xField w) (nnField w))
  | 0x8#4 => decodeFamily8 w
  | 0x9#4 => decodeN0 (.sneReg (xField w) (yField w)) w
  | 0xA#4 => .ok (.ldI (nnnField w))
  | 0xB#4 => .ok (.jpV0 (nnnField w))
  | 0xC#4 => .ok (.rnd (xField w) (nnField w))
  | 0xD#4 => .ok (.drw (xField w) (yField w) (rowsField w))
  | 0xE#4 => decodeFamilyE w
  | _ => decodeFamilyF w

/-- The word of two bytes, the one at the lower address first: big-endian (spec/20_memory.md R54). -/
def wordOfBytes (hi lo : Byte) : Word := hi ++ lo

/-- The byte stored at the lower address: bits 15:8. -/
def highByte (w : Word) : Byte := w.extractLsb' 8 8

/-- The byte stored at the higher address: bits 7:0. -/
def lowByte (w : Word) : Byte := w.extractLsb' 0 8

/-- The decoder on bytes: the first instruction and the bytes left. -/
def decode : List Byte → Except DecodeError (Instr × List Byte)
  | hi :: lo :: rest => (decodeWord (wordOfBytes hi lo)).map (·, rest)
  | _ => .error .truncated

/-- The two bytes of a word in the order the hardware stores them. -/
def bytesOfWord (w : Word) : List Byte := [highByte w, lowByte w]

/-- What the decoder reads from a row's bits, numbered as spec/opcode_table.json numbers them: one 16-bit word, bit 0
its least significant bit, the bits from `nbits` up being 0. -/
def decodeTableWord (nbits w : Nat) : Option Instr :=
  match decode (bytesOfWord (BitVec.ofNat 16 (w % 2 ^ nbits))) with
  | .ok (i, _) => some i
  | .error _ => none

/-- The four bits that name a register. -/
def regBits (x : Reg) : BitVec 4 := BitVec.ofNat 4 x.val

/-- Format NNN (spec/30_encoding.md R72). -/
def encodeNNN (op : BitVec 4) (nnn : Addr) : Word := op ++ nnn

/-- Formats XNN and X: `x` and a byte, the immediate or the fixed selector. -/
def encodeXNN (op : BitVec 4) (x : Reg) (nn : Byte) : Word := op ++ regBits x ++ nn

/-- Formats XY and XYN: `x`, `y` and a nibble, the fixed selector or the row count. -/
def encodeXYN (op : BitVec 4) (x y : Reg) (n : BitVec 4) : Word := op ++ regBits x ++ regBits y ++ n

/-- The word of an instruction, from the patterns of spec/30_encoding.md R74. -/
def encode : Instr → Word
  | .cls => 0x00E0
  | .ret => 0x00EE
  | .jp nnn => encodeNNN 0x1 nnn
  | .call nnn => encodeNNN 0x2 nnn
  | .seImm x nn => encodeXNN 0x3 x nn
  | .sneImm x nn => encodeXNN 0x4 x nn
  | .seReg x y => encodeXYN 0x5 x y 0x0
  | .ldImm x nn => encodeXNN 0x6 x nn
  | .addImm x nn => encodeXNN 0x7 x nn
  | .ldReg x y => encodeXYN 0x8 x y 0x0
  | .orReg x y => encodeXYN 0x8 x y 0x1
  | .andReg x y => encodeXYN 0x8 x y 0x2
  | .xorReg x y => encodeXYN 0x8 x y 0x3
  | .addReg x y => encodeXYN 0x8 x y 0x4
  | .sub x y => encodeXYN 0x8 x y 0x5
  | .shr x y => encodeXYN 0x8 x y 0x6
  | .subn x y => encodeXYN 0x8 x y 0x7
  | .shl x y => encodeXYN 0x8 x y 0xE
  | .sneReg x y => encodeXYN 0x9 x y 0x0
  | .ldI nnn => encodeNNN 0xA nnn
  | .jpV0 nnn => encodeNNN 0xB nnn
  | .rnd x nn => encodeXNN 0xC x nn
  | .drw x y n => encodeXYN 0xD x y (BitVec.ofNat 4 n.val)
  | .skp x => encodeXNN 0xE x 0x9E
  | .sknp x => encodeXNN 0xE x 0xA1
  | .ldFromDt x => encodeXNN 0xF x 0x07
  | .ldKey x => encodeXNN 0xF x 0x0A
  | .ldDt x => encodeXNN 0xF x 0x15
  | .ldSt x => encodeXNN 0xF x 0x18
  | .addI x => encodeXNN 0xF x 0x1E
  | .ldFont x => encodeXNN 0xF x 0x29
  | .ldBcd x => encodeXNN 0xF x 0x33
  | .storeRegs x => encodeXNN 0xF x 0x55
  | .loadRegs x => encodeXNN 0xF x 0x65

end Sys2Proof
end

