-- ==== Sys2Proof/Machine/State.lean ====
section
/-! DEFINITION. The machine's state as plain data (spec/10_state.md R20), the outcomes of a `Step`, and the state after
reset (R35). -/

namespace Sys2Proof.Machine

/-- A fatal condition (spec/60_exceptions.md R200, R206). The `Step` that meets it is a next state in which FAULT holds
it; every later `Step` stops with it as the machine's fault. Safe: the halted core is a fault, never a normal end. -/
inductive Fault where
  /-- 00EE with SP = 0 (R202). Latched by `execRet`, raised by the next step. Safe. -/
  | stackUnderflow
  /-- 2nnn with SP = 16 (R203). Latched by `execCall`, raised by the next step. Safe. -/
  | stackOverflow
  /-- PC > 0xFFE at the start of a `Step` (R204). Latched by the step itself, raised by the next. Safe. -/
  | pcOutOfBounds
deriving DecidableEq, Repr

/-- Why the model gives no meaning. -/
inductive Refusal where
  /-- An instruction without a meaning yet, by its mnemonic: raised by `exec` alone. Safe. -/
  | notModelled (mnemonic : String)
  /-- `SetKeyState` with an index outside 0 to 15 (spec/60_exceptions.md R214): raised by `transact`. Safe. -/
  | keyIndexOutOfRange (k : Nat)
  /-- A transaction on a core that was never initialised (spec/10_state.md R36): raised by `transactFrom`. Safe. -/
  | neverInitialised
deriving DecidableEq, Repr

/-- What a `Step` returns to the host (spec/60_exceptions.md R200). -/
inductive StepOutcome where
  /-- The instruction completed. -/
  | ok
  /-- The word `w`, fetched from address `a`, matches no row of the opcode table (R201). -/
  | unknownOpcode (w a : Word)
  /-- A fatal condition, latched in FAULT (R202 to R204). -/
  | fatal (f : Fault)
deriving DecidableEq, Repr

/-- The number of an outcome (spec/60_exceptions.md R200). -/
def StepOutcome.code : StepOutcome → Nat
  | .ok => 0
  | .unknownOpcode _ _ => 1
  | .fatal .stackUnderflow => 2
  | .fatal .stackOverflow => 3
  | .fatal .pcOutOfBounds => 4

/-- The three inputs of one `Step` (spec/40_step_cycle.md R91); `keys` is KEYS as the host has left it when that `Step`
begins (spec/10_state.md R29). -/
structure StepInput where
  ticks : Nat
  rnd   : Byte
  keys  : BitVec 16
deriving DecidableEq, Repr

/-- The 64 by 32 pixels (spec/44_display.md R170): row `r` of the grid is entry `r`, column `c` is bit `c` of it. -/
abbrev Framebuffer := Vector (BitVec 64) 32

/-- Everything the core holds (spec/10_state.md R20), the OPEN parameter FONT_BASE, and three fields of the model's
own. -/
structure State where
  /-- MEM, as the bytes that differ from the reset contents, by rising address (R30; `Memory.wf`). Log 10. -/
  mem : List Host.Cell
  /-- V0 to VF (R21). -/
  v : Vector Byte 16
  /-- The index register I (R23). -/
  i : Word
  /-- The program counter (R24). -/
  pc : Word
  /-- The sixteen stack entries (R25). -/
  stack : Vector Word 16
  /-- SP, how many stack entries are live (R25). -/
  sp : Fin 17
  /-- The delay timer DT (R26). -/
  dt : Byte
  /-- The sound timer ST (R27). -/
  st : Byte
  /-- FB (R28). -/
  fb : Framebuffer
  /-- KEYS, bit `k` being 1 while key `k` is pressed (R29). -/
  keys : BitVec 16
  /-- FAULT, none being NONE (R32). -/
  fault : Option Fault
  /-- FONT_BASE, the address of glyph 0: a parameter no step changes (R31). Log 8. -/
  fontBase : Fin 0x1B1
  /-- The model's own: the outcome the last `Step` returned. Log 7. -/
  report : Option StepOutcome
  /-- The model's own: the inputs of the coming `Step`s that are written down; the others are free. Log 17. -/
  inputs : List StepInput
  /-- The model's own: how many `Step`s were taken, the index of the free values. Log 17. -/
  draws : Nat
deriving DecidableEq, Repr

/-- The machine after `Initialize` (spec/10_state.md R35). `mem = []` is the reset contents: the font and zeros. The
values of `report`, `inputs` and `draws` are a DESIGN CHOICE (log 7, 17). -/
def State.reset : State where
  mem := []
  v := Vector.replicate 16 0
  i := 0
  pc := BitVec.ofNat 16 Config.progBase
  stack := Vector.replicate 16 0
  sp := 0
  dt := 0
  st := 0
  fb := Vector.replicate 32 0
  keys := 0
  fault := none
  fontBase := Config.fontBase
  report := none
  inputs := []
  draws := 0

end Sys2Proof.Machine
end

