-- ==== Sys2Proof/Machine/Memory.lean ====
section
/-! DEFINITION. Memory as a list of cells in one canonical form (spec/20_memory.md R50, R51, R57): addresses strictly
rising and below 4096, no cell equal to what an unlisted address reads as. -/

namespace Sys2Proof.Machine

/-- What an unlisted address reads as: the reset contents, the font at FONT_BASE and 0x00 elsewhere
(spec/10_state.md R35). The first test is there because the font lies below 0x200 (R31). Log 10. -/
def Memory.unlisted (base : Fin 0x1B1) (a : Nat) : Byte :=
  if a < Config.progBase then
    if base.val ≤ a ∧ a < base.val + 80 then Config.fontData.getD (a - base.val) 0 else 0
  else 0

/-- The cell listed at an address. -/
def Memory.lookup (a : Nat) : List Host.Cell → Option Byte
  | [] => none
  | (k, b) :: rest => if a = k then some b else Memory.lookup a rest

/-- `MEM[a]`. -/
def Memory.read (base : Fin 0x1B1) (m : List Host.Cell) (a : Nat) : Byte :=
  (Memory.lookup a m).getD (Memory.unlisted base a)

/-- Put a cell in its place, over the one listed there. -/
def Memory.put (a : Nat) (b : Byte) : List Host.Cell → List Host.Cell
  | [] => [(a, b)]
  | (k, c) :: rest =>
    if a < k then (a, b) :: (k, c) :: rest
    else if a = k then (a, b) :: rest
    else (k, c) :: Memory.put a b rest

/-- Take what is listed at an address away. -/
def Memory.drop (a : Nat) : List Host.Cell → List Host.Cell
  | [] => []
  | (k, c) :: rest => if a = k then Memory.drop a rest else (k, c) :: Memory.drop a rest

/-- `MEM[a] <- b`, in canonical form: the value an unlisted address reads as is not listed. -/
def Memory.write (base : Fin 0x1B1) (m : List Host.Cell) (a : Nat) (b : Byte) : List Host.Cell :=
  if b = Memory.unlisted base a then Memory.drop a m else Memory.put a b m

/-- Write consecutive bytes from an address up. -/
def Memory.writeBytes (base : Fin 0x1B1) (m : List Host.Cell) (a : Nat) : List Byte → List Host.Cell
  | [] => m
  | b :: rest => Memory.writeBytes base (Memory.write base m a b) (a + 1) rest

/-- The canonical form, for addresses from `lo` up. -/
def Memory.wfFrom (base : Fin 0x1B1) (lo : Nat) : List Host.Cell → Bool
  | [] => true
  | (k, b) :: rest =>
    decide (lo ≤ k) && decide (k < Config.memSize) && decide (b ≠ Memory.unlisted base k) &&
      Memory.wfFrom base (k + 1) rest

/-- The canonical form of a memory. -/
def Memory.wf (base : Fin 0x1B1) (m : List Host.Cell) : Bool := Memory.wfFrom base 0 m

end Sys2Proof.Machine
end

