-- ==== Sys2Proof/Machine/Ops.lean ====
section
/-! DEFINITION. The named operations over registers, memory, stack, framebuffer and inputs, and the one operation that
ends a `Step` with a fatal condition. The machine has no trap return (spec/60_exceptions.md R210): only `Initialize`
clears the latch (Machine/HostInterface.lean). -/

namespace Sys2Proof.Machine

/-- `V[x]` (spec/10_state.md R21). -/
def State.reg (s : State) (x : Reg) : Byte := s.v[x.val]

/-- `V[x] <- b`. -/
def State.setReg (s : State) (x : Reg) (b : Byte) : State := { s with v := s.v.set x.val b }

/-- VF, register 15 (spec/10_state.md R22). -/
def regVF : Reg := 15

/-- `I <- w`. -/
def State.setI (s : State) (w : Word) : State := { s with i := w }

/-- `pc <- w`. -/
def State.setPc (s : State) (w : Word) : State := { s with pc := w }

/-- The PC advance of two (spec/40_step_cycle.md R94), and the further two of a skip (spec/41_flow.md R118). -/
def State.advance (s : State) : State := s.setPc (s.pc + 2)

/-- `DT <- b`. -/
def State.setDt (s : State) (b : Byte) : State := { s with dt := b }

/-- `ST <- b`. -/
def State.setSt (s : State) (b : Byte) : State := { s with st := b }

/-- `EA(k) = (I + k) mod 4096` (spec/20_memory.md R52). -/
def State.ea (s : State) (k : Nat) : Nat := (s.i.toNat + k) % Config.memSize

/-- `MemRead(a, 1)`. -/
def State.readByte (s : State) (a : Nat) : Byte := Memory.read s.fontBase s.mem a

/-- `MemWrite(a, 1, b)`; no address is protected (spec/20_memory.md R58). -/
def State.writeByte (s : State) (a : Nat) (b : Byte) : State :=
  { s with mem := Memory.write s.fontBase s.mem a b }

/-- `STACK[k]`. -/
def State.stackAt (s : State) (k : Fin 16) : Word := s.stack[k.val]

/-- Push PC on a stack that is not full (spec/41_flow.md R112). -/
def State.pushPc (s : State) (h : s.sp.val < 16) : State :=
  { s with stack := s.stack.set s.sp.val s.pc h, sp := ⟨s.sp.val + 1, by omega⟩ }

/-- Pop PC from a stack that is not empty (spec/41_flow.md R110). The entry keeps its content. -/
def State.popPc (s : State) (h : 0 < s.sp.val) : State :=
  { s with sp := ⟨s.sp.val - 1, by omega⟩, pc := s.stack[s.sp.val - 1]'(by omega) }

/-- `FB[r][c]`, true being on (spec/44_display.md R170). -/
def Framebuffer.pixel (fb : Framebuffer) (r : Fin 32) (c : Fin 64) : Bool := fb[r.val].getLsbD c.val

/-- `FB[r][c] <- FB[r][c] ^ 1`. -/
def Framebuffer.flip (fb : Framebuffer) (r : Fin 32) (c : Fin 64) : Framebuffer :=
  fb.set r.val (fb[r.val] ^^^ BitVec.twoPow 64 c.val)

/-- The framebuffer with every pixel off. -/
def Framebuffer.blank : Framebuffer := Vector.replicate 32 0

/-- `key(k)` (spec/00_scope.md R7). -/
def State.keyDown (s : State) (k : Fin 16) : Bool := s.keys.getLsbD k.val

/-- `ticks`, the time input of the current `Step` (spec/40_step_cycle.md R91). Log 2. -/
def State.ticks (s : State) : Nat :=
  match s.inputs with
  | [] => Config.freeTicks s.draws
  | e :: _ => e.ticks

/-- `rnd`, the random byte of the current `Step` (spec/45_keys_timers_random.md R191). Log 4. -/
def State.rnd (s : State) : Byte :=
  match s.inputs with
  | [] => Config.freeRnd s.draws
  | e :: _ => e.rnd

/-- KEYS as the host has left it when the coming `Step` begins: `key_state_snapshot` (spec/10_state.md R29,
spec/40_step_cycle.md R91). Log 3. -/
def State.hostKeys (s : State) : BitVec 16 :=
  match s.inputs with
  | [] => Config.freeKeys s.draws
  | e :: _ => e.keys

/-- `raise` of a fatal condition (spec/60_exceptions.md R206): FAULT holds it, PC is unspecified (a free value, log 5),
the condition is what the `Step` returns, and nothing else changes. -/
def State.raise (s : State) (f : Fault) : State :=
  { s with fault := some f, pc := Config.freePc s.draws, report := some (.fatal f) }

/-- Timer decay (spec/40_step_cycle.md R97): each timer is lowered by `ticks` and stops at zero. -/
def decayed (timer : Byte) (ticks : Nat) : Byte := BitVec.ofNat 8 (timer.toNat - ticks)

/-- The end of a `Step` that is not fatal: both timers decay, and the outcome is reported. -/
def State.finish (s : State) (o : StepOutcome) : State :=
  { s with dt := decayed s.dt s.ticks, st := decayed s.st s.ticks, report := some o }

/-- Before a `Step`, the first one included: the host has left KEYS as it will (spec/10_state.md R29). Log 1, 3. -/
def State.hostTurn (s : State) : State := { s with keys := s.hostKeys }

/-- After a `Step`: its inputs are used up. Log 17. -/
def State.useInputs (s : State) : State := { s with inputs := s.inputs.tail, draws := s.draws + 1 }

end Sys2Proof.Machine
end

