-- ==== Sys2Proof/Machine/Flags.lean ====
section
/-! DEFINITION. The one flag, VF (spec/10_state.md R22), and its computations (spec/42_alu.md R141). -/

namespace Sys2Proof.Machine

/-- A flag as VF holds it: 1 or 0. -/
def flagByte (f : Bool) : Byte := if f then 1 else 0

/-- The carry of `p + q`: the true sum is above 255 (spec/42_alu.md R136). -/
def carry (p q : Byte) : Bool := decide (p.toNat + q.toNat > 255)

/-- NOT borrow of `p - q`: the minuend is not smaller (spec/42_alu.md R137, decision D17). -/
def notBorrow (p q : Byte) : Bool := decide (p.toNat ≥ q.toNat)

/-- The bit a right shift drops. -/
def bit0 (p : Byte) : Bool := p.getLsbD 0

/-- The bit a left shift drops. -/
def bit7 (p : Byte) : Bool := p.getLsbD 7

/-- `V[x] <- r`, then `VF <- f`: the flag last, also when `x` is 15 (spec/42_alu.md R142). -/
def State.setResultAndFlag (s : State) (x : Reg) (r : Byte) (f : Bool) : State :=
  (s.setReg x r).setReg regVF (flagByte f)

end Sys2Proof.Machine
end

