-- ==== Sys2Proof/Machine/Operands.lean ====
section
/-! DEFINITION. The operand forms (spec/30_encoding.md R73): zero extension, key and glyph numbers, decimal digits, the
register block of Fx55 and Fx65, and the sprite of Dxyn. -/

namespace Sys2Proof.Machine

/-- `zext_16` of an address operand. -/
def zextAddr (nnn : Addr) : Word := nnn.setWidth 16

/-- `zext_16` of a byte. -/
def zextByte (b : Byte) : Word := b.setWidth 16

/-- The low nibble of a byte: the key of Ex9E and ExA1 (spec/45_keys_timers_random.md R192), the digit of Fx29. -/
def lowNibble (b : Byte) : Fin 16 := ⟨(b &&& 0x0F#8).toNat % 16, Nat.mod_lt _ (by decide)⟩

/-- The address of the glyph of a digit, `FONT_BASE + 5 * d` (spec/43_index_memory.md R152). -/
def State.glyphAddr (s : State) (d : Fin 16) : Word := BitVec.ofNat 16 (s.fontBase.val + 5 * d.val)

/-- The hundreds digit of a byte (spec/43_index_memory.md R153). -/
def hundreds (b : Byte) : Byte := BitVec.ofNat 8 (b.toNat / 100)

/-- The tens digit. -/
def tens (b : Byte) : Byte := BitVec.ofNat 8 (b.toNat / 10 % 10)

/-- The units digit. -/
def units (b : Byte) : Byte := BitVec.ofNat 8 (b.toNat % 10)

/-- The smallest index of a pressed key (spec/45_keys_timers_random.md R187). -/
def lowestKey (keys : BitVec 16) : Option Nat := (List.range 16).find? (fun k => keys.getLsbD k)

/-- Register `k` of a block, 0 to 15. -/
def blockReg (k : Nat) : Reg := ⟨k % 16, Nat.mod_lt _ (by decide)⟩

/-- Store V0 up to the first `count` registers at EA(0) up, in rising order (spec/43_index_memory.md R154). -/
def State.storeBlock (s : State) : Nat → State
  | 0 => s
  | k + 1 => (s.storeBlock k).writeByte (s.ea k) (s.reg (blockReg k))

/-- Load V0 up to the first `count` registers from EA(0) up, in rising order (spec/43_index_memory.md R155). -/
def State.loadBlock (s : State) : Nat → State
  | 0 => s
  | k + 1 => (s.loadBlock k).setReg (blockReg k) (s.readByte (s.ea k))

/-- A screen column, modulo 64 (spec/44_display.md R170). -/
def wrapColumn (k : Nat) : Fin 64 := ⟨k % 64, Nat.mod_lt _ (by decide)⟩

/-- A screen row, modulo 32 (spec/44_display.md R170). -/
def wrapRow (k : Nat) : Fin 32 := ⟨k % 32, Nat.mod_lt _ (by decide)⟩

/-- A sprite draw in progress: the framebuffer, and whether a pixel went from on to off. -/
structure Drawing where
  fb  : Framebuffer
  hit : Bool
deriving DecidableEq, Repr

/-- One sprite pixel: where the sprite bit is 1, note a collision and flip the pixel. -/
def Drawing.dot (d : Drawing) (bit : Bool) (r : Fin 32) (c : Fin 64) : Drawing :=
  if bit then { fb := d.fb.flip r c, hit := d.hit || d.fb.pixel r c } else d

/-- The first `count` columns of one sprite row `b` on screen row `r`, from column `x0` (spec/44_display.md R172): bit
`7 - i` is column `i`, and each column wraps modulo 64. -/
def Drawing.row (d : Drawing) (b : Byte) (r : Fin 32) (x0 : Nat) : Nat → Drawing
  | 0 => d
  | i + 1 => (d.row b r x0 i).dot (b.getLsbD (7 - i)) r (wrapColumn (x0 + i))

/-- The first `count` rows of the sprite at EA(0), from row `y0` and column `x0`; each row wraps modulo 32. -/
def State.sprite (s : State) (x0 y0 : Nat) : Nat → Drawing
  | 0 => { fb := s.fb, hit := false }
  | j + 1 => (s.sprite x0 y0 j).row (s.readByte (s.ea j)) (wrapRow (y0 + j)) x0 8

end Sys2Proof.Machine
end

