-- ==== Sys2Proof/Machine/Alu.lean ====
section
/-! DEFINITION. Register load and arithmetic (spec/42_alu.md). A sum and a difference wrap modulo 256 (R141). -/

namespace Sys2Proof.Machine

/-- 6xnn (R130). -/
def execLdImm (x : Reg) (nn : Byte) (s : State) : Host.Outcome State Fault Refusal := .next (s.setReg x nn)

/-- 7xnn (R131): no flag. -/
def execAddImm (x : Reg) (nn : Byte) (s : State) : Host.Outcome State Fault Refusal :=
  .next (s.setReg x (s.reg x + nn))

/-- 8xy0 (R132). -/
def execLdReg (x y : Reg) (s : State) : Host.Outcome State Fault Refusal := .next (s.setReg x (s.reg y))

/-- 8xy1 (R133): VF is not written. -/
def execOrReg (x y : Reg) (s : State) : Host.Outcome State Fault Refusal :=
  .next (s.setReg x (s.reg x ||| s.reg y))

/-- 8xy2 (R134): VF is not written. -/
def execAndReg (x y : Reg) (s : State) : Host.Outcome State Fault Refusal :=
  .next (s.setReg x (s.reg x &&& s.reg y))

/-- 8xy3 (R135): VF is not written. -/
def execXorReg (x y : Reg) (s : State) : Host.Outcome State Fault Refusal :=
  .next (s.setReg x (s.reg x ^^^ s.reg y))

/-- 8xy4 (R136): VF = carry. -/
def execAddReg (x y : Reg) (s : State) : Host.Outcome State Fault Refusal :=
  .next (s.setResultAndFlag x (s.reg x + s.reg y) (carry (s.reg x) (s.reg y)))

/-- 8xy5 (R137): VF = NOT borrow. -/
def execSub (x y : Reg) (s : State) : Host.Outcome State Fault Refusal :=
  .next (s.setResultAndFlag x (s.reg x - s.reg y) (notBorrow (s.reg x) (s.reg y)))

/-- 8xy6 (R138): the field `y` is ignored; VF = old bit 0. -/
def execShr (x _y : Reg) (s : State) : Host.Outcome State Fault Refusal :=
  .next (s.setResultAndFlag x (s.reg x >>> 1) (bit0 (s.reg x)))

/-- 8xy7 (R139): VF = NOT borrow of `V[y] - V[x]`. -/
def execSubn (x y : Reg) (s : State) : Host.Outcome State Fault Refusal :=
  .next (s.setResultAndFlag x (s.reg y - s.reg x) (notBorrow (s.reg y) (s.reg x)))

/-- 8xyE (R140): the field `y` is ignored; VF = old bit 7. -/
def execShl (x _y : Reg) (s : State) : Host.Outcome State Fault Refusal :=
  .next (s.setResultAndFlag x (s.reg x <<< 1) (bit7 (s.reg x)))

end Sys2Proof.Machine
end

