-- ==== Sys2Proof/Machine/Display.lean ====
section
/-! DEFINITION. The display (spec/44_display.md). -/

namespace Sys2Proof.Machine

/-- 00E0 (R171). -/
def execCls (s : State) : Host.Outcome State Fault Refusal := .next { s with fb := Framebuffer.blank }

/-- Dxyn (R172): both coordinates are read before VF is written, once and last. -/
def execDrw (x y : Reg) (n : Fin 16) (s : State) : Host.Outcome State Fault Refusal :=
  let d := s.sprite (s.reg x).toNat (s.reg y).toNat n.val
  .next ({ s with fb := d.fb }.setReg regVF (flagByte d.hit))

end Sys2Proof.Machine
end

