-- ==== Sys2Proof/Machine/Flow.lean ====
section
/-! DEFINITION. Control transfer (spec/41_flow.md). On entry PC is the advanced one, `a + 2` (R94). -/

namespace Sys2Proof.Machine

/-- `pc <- PC + 2` when the condition holds (spec/41_flow.md R118). -/
def State.skipIf (s : State) (c : Bool) : State := if c then s.advance else s

/-- 00EE (R110). -/
def execRet (s : State) : Host.Outcome State Fault Refusal :=
  .next (if h : 0 < s.sp.val then s.popPc h else s.raise .stackUnderflow)

/-- 1nnn (R111). -/
def execJp (nnn : Addr) (s : State) : Host.Outcome State Fault Refusal := .next (s.setPc (zextAddr nnn))

/-- 2nnn (R112). -/
def execCall (nnn : Addr) (s : State) : Host.Outcome State Fault Refusal :=
  .next (if h : s.sp.val < 16 then (s.pushPc h).setPc (zextAddr nnn) else s.raise .stackOverflow)

/-- Bnnn (R113): a 16-bit sum, not masked. -/
def execJpV0 (nnn : Addr) (s : State) : Host.Outcome State Fault Refusal :=
  .next (s.setPc (zextAddr nnn + zextByte (s.reg 0)))

/-- 3xnn (R114). -/
def execSeImm (x : Reg) (nn : Byte) (s : State) : Host.Outcome State Fault Refusal :=
  .next (s.skipIf (s.reg x == nn))

/-- 4xnn (R115). -/
def execSneImm (x : Reg) (nn : Byte) (s : State) : Host.Outcome State Fault Refusal :=
  .next (s.skipIf (s.reg x != nn))

/-- 5xy0 (R116). -/
def execSeReg (x y : Reg) (s : State) : Host.Outcome State Fault Refusal :=
  .next (s.skipIf (s.reg x == s.reg y))

/-- 9xy0 (R117). -/
def execSneReg (x y : Reg) (s : State) : Host.Outcome State Fault Refusal :=
  .next (s.skipIf (s.reg x != s.reg y))

end Sys2Proof.Machine
end

