-- ==== Sys2Proof/Machine/IndexMemory.lean ====
section
/-! DEFINITION. The index register and memory transfer (spec/43_index_memory.md). Fx33, Fx55 and Fx65 leave I as it is
(R156). -/

namespace Sys2Proof.Machine

/-- Annn (R150). -/
def execLdI (nnn : Addr) (s : State) : Host.Outcome State Fault Refusal := .next (s.setI (zextAddr nnn))

/-- Fx1E (R151): modulo 65536, no flag. -/
def execAddI (x : Reg) (s : State) : Host.Outcome State Fault Refusal :=
  .next (s.setI (s.i + zextByte (s.reg x)))

/-- Fx29 (R152). -/
def execLdFont (x : Reg) (s : State) : Host.Outcome State Fault Refusal :=
  .next (s.setI (s.glyphAddr (lowNibble (s.reg x))))

/-- Fx33 (R153). -/
def execLdBcd (x : Reg) (s : State) : Host.Outcome State Fault Refusal :=
  .next (((s.writeByte (s.ea 0) (hundreds (s.reg x))).writeByte (s.ea 1) (tens (s.reg x))).writeByte (s.ea 2)
    (units (s.reg x)))

/-- Fx55 (R154): `x + 1` bytes. -/
def execStoreRegs (x : Reg) (s : State) : Host.Outcome State Fault Refusal := .next (s.storeBlock (x.val + 1))

/-- Fx65 (R155): `x + 1` bytes. -/
def execLoadRegs (x : Reg) (s : State) : Host.Outcome State Fault Refusal := .next (s.loadBlock (x.val + 1))

end Sys2Proof.Machine
end

