-- ==== Sys2Proof/Machine/Inputs.lean ====
section
/-! DEFINITION. Keys, timers and random (spec/45_keys_timers_random.md). -/

namespace Sys2Proof.Machine

/-- Ex9E (R185). -/
def execSkp (x : Reg) (s : State) : Host.Outcome State Fault Refusal :=
  .next (s.skipIf (s.keyDown (lowNibble (s.reg x))))

/-- ExA1 (R186). -/
def execSknp (x : Reg) (s : State) : Host.Outcome State Fault Refusal :=
  .next (s.skipIf (!s.keyDown (lowNibble (s.reg x))))

/-- Fx0A (R187): with no key down PC goes back to this instruction; else the smallest index is stored. -/
def execLdKey (x : Reg) (s : State) : Host.Outcome State Fault Refusal :=
  .next (match lowestKey s.keys with
    | none => s.setPc (s.pc - 2)
    | some k => s.setReg x (BitVec.ofNat 8 k))

/-- Fx07 (R188): DT before this `Step`'s decay. -/
def execLdFromDt (x : Reg) (s : State) : Host.Outcome State Fault Refusal := .next (s.setReg x s.dt)

/-- Fx15 (R189). -/
def execLdDt (x : Reg) (s : State) : Host.Outcome State Fault Refusal := .next (s.setDt (s.reg x))

/-- Fx18 (R190). -/
def execLdSt (x : Reg) (s : State) : Host.Outcome State Fault Refusal := .next (s.setSt (s.reg x))

/-- Cxnn (R191): the free byte of this `Step`, under the mask. -/
def execRnd (x : Reg) (nn : Byte) (s : State) : Host.Outcome State Fault Refusal :=
  .next (s.setReg x (s.rnd &&& nn))

end Sys2Proof.Machine
end

