-- ==== Sys2Proof/Machine/Cycle.lean ====
section
/-! DEFINITION. One `Step` (spec/40_step_cycle.md R92), and placing an instruction where it is fetched. -/

namespace Sys2Proof.Machine

/-- The word at PC and PC + 1, unmasked, big-endian (spec/40_step_cycle.md R93). -/
def State.fetchWord (s : State) : Word := wordOfBytes (s.readByte s.pc.toNat) (s.readByte (s.pc.toNat + 1))

/-- Whether both bytes of a fetch lie in memory (spec/20_memory.md R53). -/
def State.fetchInBounds (s : State) : Bool := s.pc.toNat ≤ Config.lastFetch

/-- Phases 6 to 8 after an instruction: a fatal condition leaves at once, without decay; else the timers decay. Then
this `Step`'s inputs are used up. -/
def State.endExec (s : State) : State :=
  (match s.fault with
    | some _ => s
    | none => s.finish .ok).useInputs

/-- The whole effect of an unmatched word fetched from `a` (spec/60_exceptions.md R201): PC advanced, timers decayed,
the word and its address reported. -/
def State.endUnknown (s : State) (w a : Word) : State := (s.advance.finish (.unknownOpcode w a)).useInputs

/-- Phases 3 to 8 of a `Step`. -/
def fetchExecute (s : State) : Host.Outcome State Fault Refusal :=
  match decodeWord s.fetchWord with
  | .error _ => .next (s.endUnknown s.fetchWord s.pc)
  | .ok i =>
    match exec i s.advance with
    | .next t => .next t.endExec
    | .fault f => .fault f
    | .refused r => .refused r

/-- One `Step`: the latch (phase 1), the PC bound (phase 2), then the cycle, with KEYS fixed from start to end as the
host has left it (spec/10_state.md R29). A core that is halted stays at its fault. -/
def stepCore (s : State) : Host.Outcome State Fault Refusal :=
  match s.fault with
  | some f => .fault f
  | none => if s.fetchInBounds then fetchExecute s.hostTurn else .next (s.hostTurn.raise .pcOutOfBounds).useInputs

/-- The word of `nbits` bits `w` placed where the next `Step` fetches, high byte first; no place where PC is out of
bounds. -/
def State.placeWord (s : State) (nbits w : Nat) : State :=
  if s.fetchInBounds then
    let word := BitVec.ofNat 16 (w % 2 ^ nbits)
    (s.writeByte s.pc.toNat (highByte word)).writeByte (s.pc.toNat + 1) (lowByte word)
  else s

end Sys2Proof.Machine
end

