-- ==== Sys2Proof/Machine/Step.lean ====
section
/-! DEFINITION. The machine's step, and an instruction stored where it fetches. -/

namespace Sys2Proof.Machine

/-- The host's turn at the keys, and the `Step` transaction after it. -/
def step (s : State) : Host.Outcome State Fault Refusal := stepCore s

/-- The instruction of bits `w`, as spec/opcode_table.json numbers them, stored where `step` fetches next. -/
def State.withFetchWord (s : State) (nbits w : Nat) : State := s.placeWord nbits w

end Sys2Proof.Machine
end

