-- ==== Sys2Proof/Machine/HostInterface.lean ====
section
/-! DEFINITION. The six operations of the host (spec/60_exceptions.md R214), each an atomic transaction between
`Step`s. -/

namespace Sys2Proof.Machine

/-- A transaction of the host (spec/60_exceptions.md R214). -/
inductive Transaction where
  /-- `Initialize()` -/
  | init
  /-- `LoadProgram(bytes)` -/
  | loadProgram (bytes : List Byte)
  /-- `SetKeyState(k, pressed)` -/
  | setKeyState (k : Nat) (pressed : Bool)
  /-- `Step(ticks, rnd)` -/
  | step (ticks : Nat) (rnd : Byte)
  /-- `GetFramebuffer()` -/
  | getFramebuffer
  /-- `IsSoundActive()` -/
  | isSoundActive
deriving DecidableEq, Repr

/-- What `LoadProgram` returns (spec/60_exceptions.md R200). -/
inductive LoadOutcome where
  | success
  | tooLarge
deriving DecidableEq, Repr

/-- The number of a load outcome (spec/60_exceptions.md R200). -/
def LoadOutcome.code : LoadOutcome → Nat
  | .success => 0
  | .tooLarge => 1

/-- What a transaction returns. -/
inductive Result where
  | done
  | loaded (o : LoadOutcome)
  | stepped (o : StepOutcome)
  | framebuffer (bits : BitVec 2048)
  | sound (active : Bool)
deriving DecidableEq, Repr

/-- `Initialize()` (spec/70_reset_and_hazards.md R230): every element at its reset value, whatever the state. FONT_BASE
is a parameter and stays; so does what the model keeps of the inputs still to come. -/
def State.hostInit (s : State) : State :=
  { State.reset with fontBase := s.fontBase, inputs := s.inputs, draws := s.draws }

/-- `LoadProgram(bytes)` (spec/70_reset_and_hazards.md R232): memory from 0x200 up, and nothing else. -/
def State.hostLoad (s : State) (bytes : List Byte) : State × LoadOutcome :=
  if programFits bytes then
    ({ s with mem := Memory.writeBytes s.fontBase s.mem Config.progBase bytes }, .success)
  else (s, .tooLarge)

/-- KEYS with bit `k` set to `pressed`. -/
def keysWith (keys : BitVec 16) (k : Nat) (pressed : Bool) : BitVec 16 :=
  if pressed then keys ||| BitVec.twoPow 16 k else keys &&& ~~~(BitVec.twoPow 16 k)

/-- `IsSoundActive()`: exactly while ST is not 0 (spec/10_state.md R27). -/
def State.soundActive (s : State) : Bool := s.st != 0

/-- The rows of a grid as one number, row 0 lowest. -/
def flattenRows : List (BitVec 64) → Nat
  | [] => 0
  | row :: rest => row.toNat + 2 ^ 64 * flattenRows rest

/-- `GetFramebuffer()`: the 2048 pixels, `FB[r][c]` at index `r * 64 + c` (spec/44_display.md R170). -/
def State.framebufferBits (s : State) : BitVec 2048 := BitVec.ofNat 2048 (flattenRows s.fb.toList)

/-- `Step(ticks, rnd)` as a transaction: the step with these inputs and KEYS as `SetKeyState` left it, and its
outcome. On a halted core it changes nothing and returns the latched condition (spec/60_exceptions.md R206). -/
def State.hostStep (s : State) (ticks : Nat) (rnd : Byte) : Host.Outcome (State × Result) Fault Refusal :=
  match step { s with inputs := { ticks := ticks, rnd := rnd, keys := s.keys } :: s.inputs } with
  | .next t => .next (t, .stepped (t.report.getD .ok))
  | .fault f => .next (s, .stepped (.fatal f))
  | .refused r => .refused r

/-- One transaction on an initialised core. -/
def transact (t : Transaction) (s : State) : Host.Outcome (State × Result) Fault Refusal :=
  match t with
  | .init => .next (s.hostInit, .done)
  | .loadProgram bytes => .next ((s.hostLoad bytes).1, .loaded (s.hostLoad bytes).2)
  | .setKeyState k pressed =>
    if keyIndexOk k then .next ({ s with keys := keysWith s.keys k pressed }, .done)
    else .refused (.keyIndexOutOfRange k)
  | .step ticks rnd => s.hostStep ticks rnd
  | .getFramebuffer => .next (s, .framebuffer s.framebufferBits)
  | .isSoundActive => .next (s, .sound s.soundActive)

/-- One transaction on a core that may never have been initialised (none): only `Initialize` has a meaning there
(spec/10_state.md R36). -/
def transactFrom (t : Transaction) (c : Option State) : Host.Outcome (State × Result) Fault Refusal :=
  match c, t with
  | some s, t => transact t s
  | none, .init => .next (State.reset, .done)
  | none, _ => .refused .neverInitialised

end Sys2Proof.Machine
end

