-- ==== Sys2Proof/Safety.lean ====
section
/-! DEFINITION. The terms the claims are stated in: the elementary parts of the spec's state, frames over them, what an
instruction may write, the invariants, and the state after reset as the spec lists it. -/

namespace Sys2Proof.Safety

open Sys2Proof.Machine

/-- An elementary part of the spec's state (spec/10_state.md R20). -/
inductive Part where
  | mem (a : Nat)
  | v (x : Reg)
  | i
  | pc
  | stack (k : Fin 16)
  | sp
  | dt
  | st
  | pixel (r : Fin 32) (c : Fin 64)
  | keys
  | fault
deriving DecidableEq, Repr

/-- FAULT as a number: 0 for NONE, else the code of the condition (spec/60_exceptions.md R200). -/
def faultCode : Option Fault → Nat
  | none => 0
  | some f => (StepOutcome.fatal f).code

/-- What a part holds, as a number. -/
def view (s : State) : Part → Nat
  | .mem a => (s.readByte a).toNat
  | .v x => (s.reg x).toNat
  | .i => s.i.toNat
  | .pc => s.pc.toNat
  | .stack k => (s.stackAt k).toNat
  | .sp => s.sp.val
  | .dt => s.dt.toNat
  | .st => s.st.toNat
  | .pixel r c => (s.fb.pixel r c).toNat
  | .keys => s.keys.toNat
  | .fault => faultCode s.fault

/-- Every part but the touched ones holds in `t` what it held in `s`; FONT_BASE, the inputs still to come and their
count are the same. Every byte of memory is a part, and so is every pixel. -/
def Frame (touched : Part → Prop) (s t : State) : Prop :=
  (∀ p, ¬ touched p → view t p = view s p) ∧
    t.fontBase = s.fontBase ∧ t.inputs = s.inputs ∧ t.draws = s.draws

/-- Every part but the touched ones holds in `t` what it held in `s` (for whole `Step`s, which use inputs up). -/
def Unchanged (touched : Part → Prop) (s t : State) : Prop :=
  (∀ p, ¬ touched p → view t p = view s p) ∧ t.fontBase = s.fontBase

/-- What an instruction writes: the columns "written by" of spec/10_state.md R20 and R21, with the addresses the
meaning computes. -/
def mayWrite (i : Instr) (s : State) (p : Part) : Prop :=
  match i with
  | .cls => ∃ r c, p = .pixel r c
  | .ret => p = .pc ∨ (0 < s.sp.val ∧ p = .sp) ∨ (s.sp.val = 0 ∧ p = .fault)
  | .call _ => p = .pc ∨ (s.sp.val < 16 ∧ (p = .sp ∨ ∃ k : Fin 16, k.val = s.sp.val ∧ p = .stack k)) ∨
      (s.sp.val = 16 ∧ p = .fault)
  | .jp _ | .jpV0 _ | .seImm _ _ | .sneImm _ _ | .seReg _ _ | .sneReg _ _ | .skp _ | .sknp _ => p = .pc
  | .ldImm x _ | .addImm x _ | .rnd x _ => p = .v x
  | .ldReg x _ | .orReg x _ | .andReg x _ | .xorReg x _ => p = .v x
  | .addReg x _ | .sub x _ | .shr x _ | .subn x _ | .shl x _ => p = .v x ∨ p = .v 15
  | .ldI _ | .addI _ | .ldFont _ => p = .i
  | .drw _ _ _ => p = .v 15 ∨ ∃ r c, p = .pixel r c
  | .ldFromDt x => p = .v x
  | .ldKey x => (s.keys = 0 ∧ p = .pc) ∨ (s.keys ≠ 0 ∧ p = .v x)
  | .ldDt _ => p = .dt
  | .ldSt _ => p = .st
  | .ldBcd _ => ∃ k, k < 3 ∧ p = .mem (s.ea k)
  | .storeRegs x => ∃ k, k ≤ x.val ∧ p = .mem (s.ea k)
  | .loadRegs x => ∃ k : Reg, k ≤ x ∧ p = .v k

/-- Every word with the bits `value` under `mask` decodes to the instruction made of its fields: the "Encoding" of an
instruction's rule (spec/30_encoding.md R74). -/
def Encoded (mask value : Word) (mk : Word → Instr) : Prop :=
  ∀ w : Word, w &&& mask = value → decodeWord w = .ok (mk w)

/-- The core is not halted and its next fetch is in bounds (spec/40_step_cycle.md R92, phases 1 and 2 passed). -/
def Running (s : State) : Prop := s.fault = none ∧ s.pc.toNat ≤ 0xFFE

/-- What the decoder reads at PC (spec/40_step_cycle.md R93). -/
def Fetches (s : State) (i : Instr) : Prop :=
  decode [s.readByte s.pc.toNat, s.readByte (s.pc.toNat + 1)] = .ok (i, [])

/-- The memory is in its canonical form. -/
def MemoryCanonical (s : State) : Prop := Memory.wf s.fontBase s.mem = true

/-- While the core is not halted, PC is at most 0x10FE (spec/10_state.md R24) and every live stack entry is the address
after a call, 0x002 to 0x1000 (spec/41_flow.md R110). -/
def ControlFlowInBounds (s : State) : Prop :=
  s.fault = none →
    s.pc.toNat ≤ 0x10FE ∧ ∀ k : Fin 16, k.val < s.sp.val → 2 ≤ (s.stackAt k).toNat ∧ (s.stackAt k).toNat ≤ 0x1000

/-- The values of spec/10_state.md R35, element by element. -/
def AtReset (s : State) : Prop :=
  (∀ k, k < 80 → s.readByte (s.fontBase.val + k) = Config.fontData.getD k 0) ∧
    (∀ a, a < 4096 → (a < s.fontBase.val ∨ s.fontBase.val + 80 ≤ a) → s.readByte a = 0) ∧
    (∀ x, s.reg x = 0) ∧ s.i = 0 ∧ s.pc = 0x0200 ∧ s.sp = 0 ∧ (∀ k, s.stackAt k = 0) ∧ s.dt = 0 ∧ s.st = 0 ∧
    (∀ r c, s.fb.pixel r c = false) ∧ s.keys = 0 ∧ s.fault = none ∧ s.soundActive = false

/-- The table of spec/10_state.md R31, copied digit by digit, top row first. -/
def fontTable : List (List Byte) :=
  [[0xF0, 0x90, 0x90, 0x90, 0xF0], [0x20, 0x60, 0x20, 0x20, 0x70], [0xF0, 0x10, 0xF0, 0x80, 0xF0],
   [0xF0, 0x10, 0xF0, 0x10, 0xF0], [0x90, 0x90, 0xF0, 0x10, 0x10], [0xF0, 0x80, 0xF0, 0x10, 0xF0],
   [0xF0, 0x80, 0xF0, 0x90, 0xF0], [0xF0, 0x10, 0x20, 0x40, 0x40], [0xF0, 0x90, 0xF0, 0x90, 0xF0],
   [0xF0, 0x90, 0xF0, 0x10, 0xF0], [0xF0, 0x90, 0xF0, 0x90, 0x90], [0xE0, 0x90, 0xE0, 0x90, 0xE0],
   [0xF0, 0x80, 0x80, 0x80, 0xF0], [0xE0, 0x90, 0x90, 0x90, 0xE0], [0xF0, 0x80, 0xF0, 0x80, 0xF0],
   [0xF0, 0x80, 0xF0, 0x80, 0x80]]

/-- Whether the sprite of `n` rows at EA(0), drawn from column `x0` and row `y0`, has a 1 for the pixel `(r, c)`: the
pixel lies `j` rows below and `i` columns right of the start, modulo 32 and 64 (spec/44_display.md R172). -/
def spriteBit (s : State) (x0 y0 n : Nat) (r : Fin 32) (c : Fin 64) : Bool :=
  let j := (r.val + 32 - y0 % 32) % 32
  let i := (c.val + 64 - x0 % 64) % 64
  decide (j < n) && decide (i < 8) && (s.readByte (s.ea j)).getLsbD (7 - i)

/-- Two states that differ at most in the upper four bits of I (spec/10_state.md R23). -/
def SameButUpperI (s t : State) : Prop := s.i.toNat % 4096 = t.i.toNat % 4096 ∧ { s with i := t.i } = t

/-- Two states that differ at most in stack entries at or above SP (spec/10_state.md R25). -/
def SameButDeadStack (s t : State) : Prop :=
  (∀ k : Fin 16, k.val < s.sp.val → s.stackAt k = t.stackAt k) ∧ { s with stack := t.stack } = t

/-- Two states that differ at most in ST (spec/10_state.md R27). -/
def SameButSound (s t : State) : Prop := { s with st := t.st } = t

end Sys2Proof.Safety
end

