-- ==== Sys2Proof/Certificates/Slice0/Obligations.lean ====
section
/-! DEFINITION. The statements for the provers. -/

open Sys2Proof Sys2Proof.Machine Sys2Proof.Safety

/-! ## Encoding -/

/-- spec/30_encoding.md R71: each field is its bit slice, as a number. -/
def Obligations.WordFieldsAreItsBitSlices : Prop :=
  ∀ w : Word,
    (opField w).toNat = w.toNat / 4096 ∧ (xField w).val = w.toNat / 256 % 16 ∧ (yField w).val = w.toNat / 16 % 16 ∧
      (nField w).toNat = w.toNat % 16 ∧ (rowsField w).val = w.toNat % 16 ∧ (nnField w).toNat = w.toNat % 256 ∧
      (nnnField w).toNat = w.toNat % 4096

/-- spec/30_encoding.md R81: a word that a row selects decodes to that row's instruction, and a word that no row
selects is an unknown opcode. No two rows have one mnemonic, so at most one row selects a word. -/
def Obligations.DecoderFollowsTheOpcodeTable : Prop :=
  ∀ w : Word,
    (∀ r ∈ opcodeTable, r.selects w = true → ∃ i, decodeWord w = .ok i ∧ i.mnemonic = r.mnemonic) ∧
      ((∀ r ∈ opcodeTable, r.selects w = false) → decodeWord w = .error (.unknownOpcode w))

/-- Decoding the word of an instruction, or its two bytes, gives the instruction back: no bit of an operand is
dropped. -/
def Obligations.DecodeOfEncodeIsTheInstruction : Prop :=
  ∀ i : Instr, decodeWord (encode i) = .ok i ∧ decode (bytesOfWord (encode i)) = .ok (i, [])

/-- A word has one meaning: encoding what it decodes to gives the word back, the ignored field `y` of 8xy6 and 8xyE
included. -/
def Obligations.EncodeOfDecodeIsTheWord : Prop :=
  ∀ (w : Word) (i : Instr), decodeWord w = .ok i → encode i = w

/-- A few words written out from the patterns of spec/30_encoding.md R74, one or more of each family. -/
def Obligations.SampleWordsDecodeAsWritten : Prop :=
  decodeWord 0x00EE = .ok .ret ∧ decodeWord 0x1204 = .ok (.jp 0x204) ∧ decodeWord 0x3C42 = .ok (.seImm 12 0x42) ∧
    decodeWord 0x8AB4 = .ok (.addReg 10 11) ∧ decodeWord 0xA2F0 = .ok (.ldI 0x2F0) ∧
    decodeWord 0xD12F = .ok (.drw 1 2 15) ∧ decodeWord 0xE09E = .ok (.skp 0) ∧ decodeWord 0xF765 = .ok (.loadRegs 7) ∧
    decodeWord 0x5AB1 = .error (.unknownOpcode 0x5AB1)

/-- spec/30_encoding.md section 3 (R76, the spec's decision D13): the unmatched words, family by family. -/
def Obligations.UnknownWordsAreExactlyTheListed : Prop :=
  ∀ w : Word,
    decodeWord w = .error (.unknownOpcode w) ↔
      (w.toNat / 4096 = 0 ∧ w.toNat ≠ 0x00E0 ∧ w.toNat ≠ 0x00EE) ∨
      (w.toNat / 4096 = 5 ∧ w.toNat % 16 ≠ 0) ∨
      (w.toNat / 4096 = 8 ∧ w.toNat % 16 ∈ [8, 9, 0xA, 0xB, 0xC, 0xD, 0xF]) ∨
      (w.toNat / 4096 = 9 ∧ w.toNat % 16 ≠ 0) ∨
      (w.toNat / 4096 = 0xE ∧ w.toNat % 256 ∉ [0x9E, 0xA1]) ∨
      (w.toNat / 4096 = 0xF ∧ w.toNat % 256 ∉ [0x07, 0x0A, 0x15, 0x18, 0x1E, 0x29, 0x33, 0x55, 0x65])

/-! ## The Step cycle and its conditions -/

/-- spec/40_step_cycle.md R92: when the bytes at PC decode to `i`, the step is `exec i` with PC advanced by two and KEYS
as the host has left it (spec/10_state.md R29, decision D5, log 3), which answers a next state; then, unless a fatal
condition was latched, both timers decay and OK is reported; then this step's inputs are used up (the model's choice,
log 17). -/
def Obligations.StepRunsTheDecodedInstruction : Prop :=
  ∀ (s : State) (i : Instr), Running s → Fetches s i →
    ∃ t, exec i { s with pc := s.pc + 2, keys := s.hostKeys } = .next t ∧
      step s = .next
        { (if t.fault = none then
            { t with dt := BitVec.ofNat 8 (t.dt.toNat - t.ticks), st := BitVec.ofNat 8 (t.st.toNat - t.ticks),
                     report := some .ok }
          else t) with
          inputs := t.inputs.tail, draws := t.draws + 1 }

/-- No instruction faults or is refused, in any state: a stack condition is a next state with the latch set. -/
def Obligations.EveryInstructionAnswersANextState : Prop :=
  ∀ (i : Instr) (s : State), ∃ t, exec i s = .next t

/-- spec/60_exceptions.md section 1 (R206, the spec's decision D15; as a machine's fault: the model's choice, log 6):
the step stops with a condition exactly when FAULT holds it, and nothing is ever refused. -/
def Obligations.StepStopsExactlyWhenHalted : Prop :=
  ∀ s : State, (∀ f, step s = .fault f ↔ s.fault = some f) ∧ ∀ r, step s ≠ .refused r

/-- spec/60_exceptions.md section 1 (R202 to R204, R207): which step latches which condition, and no other latches
any. -/
def Obligations.FatalConditionsAreExactlyThree : Prop :=
  ∀ s t : State, s.fault = none → step s = .next t →
    (t.fault = some .pcOutOfBounds ↔ s.pc.toNat > 0xFFE) ∧
      (t.fault = some .stackUnderflow ↔ s.pc.toNat ≤ 0xFFE ∧ Fetches s .ret ∧ s.sp.val = 0) ∧
      (t.fault = some .stackOverflow ↔ s.pc.toNat ≤ 0xFFE ∧ (∃ nnn, Fetches s (.call nnn)) ∧ s.sp.val = 16)

/-- spec/60_exceptions.md section 1 (R206, decision D15): a fatal step reports its condition and changes nothing but
FAULT and PC, whose value is left open; KEYS is as the host left it before the step (log 3). The next step
stops there. -/
def Obligations.FatalStepChangesNothingElse : Prop :=
  ∀ (s t : State) (f : Fault), s.fault = none → step s = .next t → t.fault = some f →
    t.report = some (.fatal f) ∧ t.keys = s.hostKeys ∧
      Unchanged (fun p => p = .pc ∨ p = .fault ∨ p = .keys) s t ∧ step t = .fault f

/-- spec/60_exceptions.md section 1 (R206, decision D15): on a halted core a `Step` returns the latched condition and
changes nothing, and only `Initialize` clears the latch. -/
def Obligations.OnlyInitializeClearsTheLatch : Prop :=
  ∀ (s : State) (f : Fault), s.fault = some f →
    (∀ ticks rnd, transact (.step ticks rnd) s = .next (s, .stepped (.fatal f))) ∧
      ∀ tr u r, transact tr s = .next (u, r) → u.fault = some f ∨ (tr = .init ∧ u.fault = none)

/-- spec/60_exceptions.md section 1 (R201, decision D16): a word that decodes to nothing advances PC by two, decays the
timers, is reported with its address, and changes nothing else; KEYS is as the host left it before the
step (log 3). -/
def Obligations.UnknownWordOnlyAdvancesAndDecays : Prop :=
  ∀ (s : State) (w : Word), Running s → w = s.readByte s.pc.toNat ++ s.readByte (s.pc.toNat + 1) →
    decodeWord w = .error (.unknownOpcode w) →
    ∃ t, step s = .next t ∧ t.pc.toNat = s.pc.toNat + 2 ∧ t.dt.toNat = s.dt.toNat - s.ticks ∧
      t.st.toNat = s.st.toNat - s.ticks ∧ t.report = some (.unknownOpcode w s.pc) ∧ t.keys = s.hostKeys ∧
      Unchanged (fun p => p = .pc ∨ p = .dt ∨ p = .st ∨ p = .keys) s t

/-- spec/40_step_cycle.md section 4 (an inference of R101): a jump to itself leaves all state unchanged except the two
timers; KEYS is as the host left it before the step (log 3). -/
def Obligations.JumpToSelfOnlyDecaysTimers : Prop :=
  ∀ (s : State) (nnn : Addr), Running s → Fetches s (.jp nnn) → s.pc.toNat = nnn.toNat →
    ∃ t, step s = .next t ∧ t.dt.toNat = s.dt.toNat - s.ticks ∧ t.st.toNat = s.st.toNat - s.ticks ∧
      t.keys = s.hostKeys ∧ Unchanged (fun p => p = .dt ∨ p = .st ∨ p = .keys) s t

/-- spec/40_step_cycle.md section 3 (R97, decision D32; the second part is an inference of the spec): a decay saturates
at zero, decays add up, and no ticks change nothing. -/
def Obligations.TimerDecaySaturatesAndAddsUp : Prop :=
  ∀ (b : Byte) (m n : Nat),
    (decayed b m).toNat = max 0 ((b.toNat : Int) - m) ∧ decayed (decayed b m) n = decayed b (m + n) ∧ decayed b 0 = b

/-! ## Invariants -/

/-- Every step keeps the memory in its canonical form (the model's form, log 10). -/
def Obligations.StepKeepsMemoryCanonical : Prop :=
  ∀ s t : State, MemoryCanonical s → step s = .next t → MemoryCanonical t

/-- spec/10_state.md section 4 (an inference of R24) and spec/41_flow.md R110: every step keeps PC at most 0x10FE and
every live stack entry between 0x002 and 0x1000, while the core is not halted. -/
def Obligations.StepKeepsControlFlowInBounds : Prop :=
  ∀ s t : State, ControlFlowInBounds s → step s = .next t → ControlFlowInBounds t

/-- Both invariants hold after reset. -/
def Obligations.InvariantsHoldAtReset : Prop :=
  MemoryCanonical State.reset ∧ ControlFlowInBounds State.reset

/-- Every transaction of the host keeps both invariants, `LoadProgram` of any image included. -/
def Obligations.HostTransactionsKeepInvariants : Prop :=
  ∀ (tr : Transaction) (s u : State) (r : Result), MemoryCanonical s → ControlFlowInBounds s →
    transact tr s = .next (u, r) → MemoryCanonical u ∧ ControlFlowInBounds u

/-- spec/10_state.md sections 1 and 2: each instruction leaves every part unchanged but those it writes. -/
def Obligations.ExecWritesOnlyItsFootprint : Prop :=
  ∀ (i : Instr) (s t : State), exec i s = .next t → Frame (mayWrite i s) s t

/-- spec/10_state.md section 1 (the column "written by" of R20): which instructions alone can change which element. -/
def Obligations.EachElementHasItsSoleWriters : Prop :=
  ∀ (i : Instr) (s t : State), exec i s = .next t →
    ((∃ r c, t.fb.pixel r c ≠ s.fb.pixel r c) → i = .cls ∨ ∃ x y n, i = .drw x y n) ∧
      ((∃ a, t.readByte a ≠ s.readByte a) → ∃ x, i = .ldBcd x ∨ i = .storeRegs x) ∧
      ((∃ k, t.stackAt k ≠ s.stackAt k) → ∃ nnn, i = .call nnn) ∧
      (t.sp ≠ s.sp → i = .ret ∨ ∃ nnn, i = .call nnn) ∧
      (t.i ≠ s.i → (∃ nnn, i = .ldI nnn) ∨ ∃ x, i = .addI x ∨ i = .ldFont x) ∧
      (t.dt ≠ s.dt → ∃ x, i = .ldDt x) ∧ (t.st ≠ s.st → ∃ x, i = .ldSt x) ∧ t.keys = s.keys ∧
      (t.fault ≠ s.fault → i = .ret ∨ ∃ nnn, i = .call nnn)

/-! ## Reset and the host's transactions -/

/-- spec/10_state.md R35: every element of the reset state, the font bytes being the parameter FONT_DATA of R31. -/
def Obligations.ResetStateIsAsListed : Prop := AtReset State.reset

/-- spec/10_state.md section 6 (R31; its bytes are the spec's own, from general knowledge, log 9) with
spec/43_index_memory.md R152: after Fx29 in a state whose memory is as after reset, the five bytes from EA(0) are the
rows of the glyph of the low digit of V[x], wherever FONT_BASE lies. -/
def Obligations.FontPointerFindsTheGlyph : Prop :=
  ∀ (s : State) (x : Reg) (k : Nat), s.mem = [] → k < 5 →
    ∃ t, exec (.ldFont x) s = .next t ∧
      t.readByte (t.ea k) = ((fontTable.getD ((s.reg x).toNat % 16) []).getD k 0)

/-- spec/70_reset_and_hazards.md section 1 (R230, decision D27) and spec/10_state.md R36: `Initialize` cannot fail, in
any state, halted or never initialised; the state is then as after reset, FONT_BASE kept; twice is once; and every
other transaction on a core never initialised is refused. -/
def Obligations.InitializeResetsAnyState : Prop :=
  (∀ s : State, ∃ u, transact .init s = .next (u, .done) ∧ AtReset u ∧ u.fontBase = s.fontBase ∧
      transact .init u = .next (u, .done)) ∧
    (∃ u, transactFrom .init none = .next (u, .done) ∧ AtReset u) ∧
    ∀ tr, tr ≠ .init → transactFrom tr none = .refused .neverInitialised

/-- spec/70_reset_and_hazards.md section 2 (decision D28, log 13): a program of at most 3584 bytes is copied to 0x200
up, in any state, and nothing else changes, FAULT included; a longer one is TOO_LARGE and no state changes. -/
def Obligations.LoadProgramCopiesOrLeavesAlone : Prop :=
  ∀ (s : State) (bytes : List Byte),
    (bytes.length ≤ 3584 → ∃ u, transact (.loadProgram bytes) s = .next (u, .loaded .success) ∧
      (∀ k, k < bytes.length → u.readByte (0x200 + k) = bytes.getD k 0) ∧
      Frame (fun p => ∃ k, k < bytes.length ∧ p = .mem (0x200 + k)) s u) ∧
      (3584 < bytes.length → transact (.loadProgram bytes) s = .next (s, .loaded .tooLarge))

/-- spec/60_exceptions.md section 4 (R214) and spec/10_state.md section 6: `SetKeyState` sets one bit of KEYS and
changes nothing else; an index above 15 is refused. -/
def Obligations.SetKeyStateSetsOneKey : Prop :=
  ∀ (s : State) (k : Nat) (pressed : Bool),
    (k < 16 → ∃ u, transact (.setKeyState k pressed) s = .next (u, .done) ∧
      (∀ j : Fin 16, u.keyDown j = if j.val = k then pressed else s.keyDown j) ∧ Frame (fun p => p = .keys) s u) ∧
      (16 ≤ k → transact (.setKeyState k pressed) s = .refused (.keyIndexOutOfRange k))

/-- spec/60_exceptions.md section 4 (R214), spec/44_display.md section on geometry (R170), spec/10_state.md section 5:
`GetFramebuffer` gives `FB[r][c]` at index `64 r + c`, `IsSoundActive` is true exactly while ST is not 0, and neither
changes the state. -/
def Obligations.ReadOutsShowPixelsAndSound : Prop :=
  ∀ s : State,
    (∃ bits, transact .getFramebuffer s = .next (s, .framebuffer bits) ∧
      ∀ (r : Fin 32) (c : Fin 64), bits.getLsbD (r.val * 64 + c.val) = s.fb.pixel r c) ∧
      ∃ b, transact .isSoundActive s = .next (s, .sound b) ∧ (b = true ↔ s.st.toNat ≠ 0)

/-- spec/40_step_cycle.md section 2 (R91) and spec/10_state.md section 6: the transaction `Step(ticks, rnd)` on a core
not halted returns one outcome, the one reported; it takes its two inputs from its arguments and KEYS from the state,
and leaves KEYS and the inputs written down as they are. -/
def Obligations.StepTransactionTakesItsArguments : Prop :=
  ∀ (s : State) (ticks : Nat) (rnd : Byte), s.fault = none →
    ∃ u o, transact (.step ticks rnd) s = .next (u, .stepped o) ∧ u.report = some o ∧ u.keys = s.keys ∧
      u.inputs = s.inputs ∧ u.draws = s.draws + 1 ∧ u.fontBase = s.fontBase ∧
      (∀ i t, Running s → Fetches s i →
        exec i { s with pc := s.pc + 2, inputs := { ticks := ticks, rnd := rnd, keys := s.keys } :: s.inputs } =
          .next t → t.fault = none →
        o = .ok ∧ u.dt.toNat = t.dt.toNat - ticks ∧ u.st.toNat = t.st.toNat - ticks ∧
          Unchanged (fun p => p = .dt ∨ p = .st) t u)

/-! ## Control transfer -/

/-- spec/41_flow.md R111: 1nnn. -/
def Obligations.JumpGoesToItsOperand : Prop :=
  Encoded 0xF000 0x1000 (fun w => .jp (nnnField w)) ∧
    ∀ (nnn : Addr) (s : State), ∃ t, exec (.jp nnn) s = .next t ∧ t.pc.toNat = nnn.toNat ∧
      Frame (fun p => p = .pc) s t

/-- spec/41_flow.md (R113, decision D37): Bnnn, always V0, a sum that is not masked and never wraps. -/
def Obligations.IndexedJumpAddsV0 : Prop :=
  Encoded 0xF000 0xB000 (fun w => .jpV0 (nnnField w)) ∧
    ∀ (nnn : Addr) (s : State), ∃ t, exec (.jpV0 nnn) s = .next t ∧
      t.pc.toNat = nnn.toNat + (s.reg 0).toNat ∧ Frame (fun p => p = .pc) s t

/-- spec/41_flow.md R114, R115: 3xnn and 4xnn. -/
def Obligations.ImmediateSkipsCompareAndSkip : Prop :=
  Encoded 0xF000 0x3000 (fun w => .seImm (xField w) (nnField w)) ∧
    Encoded 0xF000 0x4000 (fun w => .sneImm (xField w) (nnField w)) ∧
    ∀ (x : Reg) (nn : Byte) (s : State),
      (∃ t, exec (.seImm x nn) s = .next t ∧ t.pc = (if (s.reg x).toNat = nn.toNat then s.pc + 2 else s.pc) ∧
        Frame (fun p => p = .pc) s t) ∧
        ∃ t, exec (.sneImm x nn) s = .next t ∧ t.pc = (if (s.reg x).toNat ≠ nn.toNat then s.pc + 2 else s.pc) ∧
          Frame (fun p => p = .pc) s t

/-- spec/41_flow.md R116, R117: 5xy0 and 9xy0, `x` = `y` included; a word of these families with `n` not 0 is
unknown. -/
def Obligations.RegisterSkipsCompareAndSkip : Prop :=
  Encoded 0xF00F 0x5000 (fun w => .seReg (xField w) (yField w)) ∧
    Encoded 0xF00F 0x9000 (fun w => .sneReg (xField w) (yField w)) ∧
    (∀ w : Word, w.toNat / 4096 = 5 ∨ w.toNat / 4096 = 9 → w.toNat % 16 ≠ 0 →
      decodeWord w = .error (.unknownOpcode w)) ∧
    ∀ (x y : Reg) (s : State),
      (∃ t, exec (.seReg x y) s = .next t ∧
        t.pc = (if (s.reg x).toNat = (s.reg y).toNat then s.pc + 2 else s.pc) ∧ Frame (fun p => p = .pc) s t) ∧
        ∃ t, exec (.sneReg x y) s = .next t ∧
          t.pc = (if (s.reg x).toNat ≠ (s.reg y).toNat then s.pc + 2 else s.pc) ∧ Frame (fun p => p = .pc) s t

/-- spec/45_keys_timers_random.md section 1 (R185, R186, R192, decision D24): Ex9E and ExA1 test the key of the low
nibble. -/
def Obligations.KeySkipsTestTheLowNibbleKey : Prop :=
  Encoded 0xF0FF 0xE09E (fun w => .skp (xField w)) ∧ Encoded 0xF0FF 0xE0A1 (fun w => .sknp (xField w)) ∧
    ∀ (x : Reg) (s : State),
      (∃ t, exec (.skp x) s = .next t ∧
        t.pc = (if s.keys.getLsbD ((s.reg x).toNat % 16) = true then s.pc + 2 else s.pc) ∧
        Frame (fun p => p = .pc) s t) ∧
        ∃ t, exec (.sknp x) s = .next t ∧
          t.pc = (if s.keys.getLsbD ((s.reg x).toNat % 16) = false then s.pc + 2 else s.pc) ∧
          Frame (fun p => p = .pc) s t

/-- spec/41_flow.md (R110, decisions D6, D36): 00EE pops PC; with SP = 0 it latches STACK_UNDERFLOW and pops
nothing. -/
def Obligations.ReturnPopsTheTopEntry : Prop :=
  decodeWord 0x00EE = .ok .ret ∧
    ∀ s : State,
      (∀ k : Fin 16, s.sp.val = k.val + 1 → ∃ t, exec .ret s = .next t ∧ t.pc = s.stackAt k ∧ t.sp.val = k.val ∧
        Frame (fun p => p = .pc ∨ p = .sp) s t) ∧
        (s.sp.val = 0 → ∃ t, exec .ret s = .next t ∧ t.fault = some .stackUnderflow ∧
          Frame (fun p => p = .pc ∨ p = .fault) s t)

/-- spec/41_flow.md (R112, decision D6): 2nnn pushes the PC of the next instruction; with SP = 16 it latches
STACK_OVERFLOW and pushes nothing. -/
def Obligations.CallPushesTheReturnAddress : Prop :=
  Encoded 0xF000 0x2000 (fun w => .call (nnnField w)) ∧
    ∀ (nnn : Addr) (s : State),
      (∀ k : Fin 16, s.sp.val = k.val → ∃ t, exec (.call nnn) s = .next t ∧ t.pc.toNat = nnn.toNat ∧
        t.stackAt k = s.pc ∧ t.sp.val = k.val + 1 ∧ Frame (fun p => p = .pc ∨ p = .sp ∨ p = .stack k) s t) ∧
        (s.sp.val = 16 → ∃ t, exec (.call nnn) s = .next t ∧ t.fault = some .stackOverflow ∧
          Frame (fun p => p = .pc ∨ p = .fault) s t)

/-- spec/41_flow.md (R119): after a call, a return that finds SP and the entry as the call left them goes back to the
instruction after the call, at any depth below the capacity. -/
def Obligations.CallThenReturnComesBack : Prop :=
  ∀ (nnn : Addr) (s : State) (k : Fin 16), s.sp.val = k.val →
    ∃ t, exec (.call nnn) s = .next t ∧
      ∀ u : State, u.sp = t.sp → u.stackAt k = t.stackAt k →
        ∃ r, exec .ret u = .next r ∧ r.pc = s.pc ∧ r.sp = s.sp

/-! ## Register load and arithmetic -/

/-- spec/42_alu.md R130, R131: 6xnn and 7xnn; no flag. -/
def Obligations.ImmediateLoadAndAddWrap : Prop :=
  Encoded 0xF000 0x6000 (fun w => .ldImm (xField w) (nnField w)) ∧
    Encoded 0xF000 0x7000 (fun w => .addImm (xField w) (nnField w)) ∧
    ∀ (x : Reg) (nn : Byte) (s : State),
      (∃ t, exec (.ldImm x nn) s = .next t ∧ (t.reg x).toNat = nn.toNat ∧ Frame (fun p => p = .v x) s t) ∧
        ∃ t, exec (.addImm x nn) s = .next t ∧ (t.reg x).toNat = ((s.reg x).toNat + nn.toNat) % 256 ∧
          Frame (fun p => p = .v x) s t

/-- spec/42_alu.md section 3 (R132 to R135, decision D19): 8xy0 to 8xy3, bit by bit; VF is written only as the
destination. -/
def Obligations.RegisterLogicIsBitwise : Prop :=
  Encoded 0xF00F 0x8000 (fun w => .ldReg (xField w) (yField w)) ∧
    Encoded 0xF00F 0x8001 (fun w => .orReg (xField w) (yField w)) ∧
    Encoded 0xF00F 0x8002 (fun w => .andReg (xField w) (yField w)) ∧
    Encoded 0xF00F 0x8003 (fun w => .xorReg (xField w) (yField w)) ∧
    ∀ (x y : Reg) (s : State),
      (∃ t, exec (.ldReg x y) s = .next t ∧ t.reg x = s.reg y ∧ Frame (fun p => p = .v x) s t) ∧
        (∃ t, exec (.orReg x y) s = .next t ∧
          (∀ b, (t.reg x).getLsbD b = ((s.reg x).getLsbD b || (s.reg y).getLsbD b)) ∧
          Frame (fun p => p = .v x) s t) ∧
        (∃ t, exec (.andReg x y) s = .next t ∧
          (∀ b, (t.reg x).getLsbD b = ((s.reg x).getLsbD b && (s.reg y).getLsbD b)) ∧
          Frame (fun p => p = .v x) s t) ∧
        ∃ t, exec (.xorReg x y) s = .next t ∧
          (∀ b, (t.reg x).getLsbD b = ((s.reg x).getLsbD b != (s.reg y).getLsbD b)) ∧ Frame (fun p => p = .v x) s t

/-- spec/42_alu.md R136: 8xy4; VF = carry, written last, also when `x` is 15. -/
def Obligations.AddSetsCarryLast : Prop :=
  Encoded 0xF00F 0x8004 (fun w => .addReg (xField w) (yField w)) ∧
    ∀ (x y : Reg) (s : State), ∃ t, exec (.addReg x y) s = .next t ∧
      (x ≠ 15 → (t.reg x).toNat = ((s.reg x).toNat + (s.reg y).toNat) % 256) ∧
      (t.reg 15).toNat = (if (s.reg x).toNat + (s.reg y).toNat > 255 then 1 else 0) ∧
      Frame (fun p => p = .v x ∨ p = .v 15) s t

/-- spec/42_alu.md section 4 (R137, R139, decision D17: equal operands give VF = 1): 8xy5 and 8xy7; VF = NOT borrow,
written last, also when `x` is 15. -/
def Obligations.SubtractsSetNotBorrowLast : Prop :=
  Encoded 0xF00F 0x8005 (fun w => .sub (xField w) (yField w)) ∧
    Encoded 0xF00F 0x8007 (fun w => .subn (xField w) (yField w)) ∧
    ∀ (x y : Reg) (s : State),
      (∃ t, exec (.sub x y) s = .next t ∧
        (x ≠ 15 → (t.reg x).toNat = ((s.reg x).toNat + 256 - (s.reg y).toNat) % 256) ∧
        (t.reg 15).toNat = (if (s.reg x).toNat ≥ (s.reg y).toNat then 1 else 0) ∧
        Frame (fun p => p = .v x ∨ p = .v 15) s t) ∧
        ∃ t, exec (.subn x y) s = .next t ∧
          (x ≠ 15 → (t.reg x).toNat = ((s.reg y).toNat + 256 - (s.reg x).toNat) % 256) ∧
          (t.reg 15).toNat = (if (s.reg y).toNat ≥ (s.reg x).toNat then 1 else 0) ∧
          Frame (fun p => p = .v x ∨ p = .v 15) s t

/-- spec/42_alu.md section 4 (R138, R140, decision D18: V[x] is shifted, `y` is ignored): 8xy6 and 8xyE; VF = the bit
shifted out, written last, also when `x` is 15. -/
def Obligations.ShiftsSetTheLostBitLast : Prop :=
  Encoded 0xF00F 0x8006 (fun w => .shr (xField w) (yField w)) ∧
    Encoded 0xF00F 0x800E (fun w => .shl (xField w) (yField w)) ∧
    ∀ (x y : Reg) (s : State),
      (∃ t, exec (.shr x y) s = .next t ∧ (x ≠ 15 → (t.reg x).toNat = (s.reg x).toNat / 2) ∧
        (t.reg 15).toNat = (s.reg x).toNat % 2 ∧ Frame (fun p => p = .v x ∨ p = .v 15) s t) ∧
        ∃ t, exec (.shl x y) s = .next t ∧ (x ≠ 15 → (t.reg x).toNat = 2 * (s.reg x).toNat % 256) ∧
          (t.reg 15).toNat = (s.reg x).toNat / 128 ∧ Frame (fun p => p = .v x ∨ p = .v 15) s t

/-- spec/10_state.md section 3 (R22): the six flag-writing instructions leave 0 or 1 in VF, and any other instruction
that changes VF is one that writes registers and names register 15 as a destination. -/
def Obligations.FlagWritersLeaveZeroOrOne : Prop :=
  ∀ (i : Instr) (s t : State), exec i s = .next t →
    ((∃ x y, i = .addReg x y ∨ i = .sub x y ∨ i = .shr x y ∨ i = .subn x y ∨ i = .shl x y ∨ ∃ n, i = .drw x y n) →
      t.reg 15 = 0 ∨ t.reg 15 = 1) ∧
      ((∀ x y, i ≠ .addReg x y ∧ i ≠ .sub x y ∧ i ≠ .shr x y ∧ i ≠ .subn x y ∧ i ≠ .shl x y ∧
          ∀ n, i ≠ .drw x y n) → t.reg 15 ≠ s.reg 15 →
        (∃ nn, i = .ldImm 15 nn ∨ i = .addImm 15 nn ∨ i = .rnd 15 nn) ∨
          (∃ y, i = .ldReg 15 y ∨ i = .orReg 15 y ∨ i = .andReg 15 y ∨ i = .xorReg 15 y) ∨
          i = .ldFromDt 15 ∨ i = .ldKey 15 ∨ i = .loadRegs 15)

/-! ## Index register and memory transfer -/

/-- spec/43_index_memory.md R150: Annn. -/
def Obligations.LoadIndexZeroExtends : Prop :=
  Encoded 0xF000 0xA000 (fun w => .ldI (nnnField w)) ∧
    ∀ (nnn : Addr) (s : State), ∃ t, exec (.ldI nnn) s = .next t ∧ t.i.toNat = nnn.toNat ∧
      Frame (fun p => p = .i) s t

/-- spec/43_index_memory.md (R151, decision D12): Fx1E wraps at 65536 and sets no flag. -/
def Obligations.AddToIndexWraps : Prop :=
  Encoded 0xF0FF 0xF01E (fun w => .addI (xField w)) ∧
    ∀ (x : Reg) (s : State), ∃ t, exec (.addI x) s = .next t ∧
      t.i.toNat = (s.i.toNat + (s.reg x).toNat) % 65536 ∧ Frame (fun p => p = .i) s t

/-- spec/43_index_memory.md (R152, decisions D7, D35): Fx29, for every FONT_BASE; it looks at no memory. -/
def Obligations.FontPointerIsBasePlusFiveTimesDigit : Prop :=
  Encoded 0xF0FF 0xF029 (fun w => .ldFont (xField w)) ∧
    ∀ (x : Reg) (s : State), ∃ t, exec (.ldFont x) s = .next t ∧
      t.i.toNat = s.fontBase.val + 5 * ((s.reg x).toNat % 16) ∧ Frame (fun p => p = .i) s t

/-- spec/43_index_memory.md R153: Fx33 stores the hundreds, tens and units digits at EA(0), EA(1), EA(2). -/
def Obligations.DecimalDigitsAreStored : Prop :=
  Encoded 0xF0FF 0xF033 (fun w => .ldBcd (xField w)) ∧
    ∀ (x : Reg) (s : State), ∃ t, exec (.ldBcd x) s = .next t ∧
      (t.readByte (s.ea 0)).toNat = (s.reg x).toNat / 100 ∧
      (t.readByte (s.ea 1)).toNat = (s.reg x).toNat / 10 % 10 ∧
      (t.readByte (s.ea 2)).toNat = (s.reg x).toNat % 10 ∧
      Frame (fun p => ∃ k, k < 3 ∧ p = .mem (s.ea k)) s t

/-- spec/43_index_memory.md (R154, decision D20): Fx55 stores V0 to V[x] at EA(0) to EA(x); I is unchanged. -/
def Obligations.StoreBlockWritesV0ToVx : Prop :=
  Encoded 0xF0FF 0xF055 (fun w => .storeRegs (xField w)) ∧
    ∀ (x : Reg) (s : State), ∃ t, exec (.storeRegs x) s = .next t ∧
      (∀ k : Reg, k ≤ x → t.readByte (s.ea k.val) = s.reg k) ∧
      Frame (fun p => ∃ k, k ≤ x.val ∧ p = .mem (s.ea k)) s t

/-- spec/43_index_memory.md (R155, decision D20): Fx65 loads V0 to V[x] from EA(0) to EA(x); I is unchanged. -/
def Obligations.LoadBlockReadsV0ToVx : Prop :=
  Encoded 0xF0FF 0xF065 (fun w => .loadRegs (xField w)) ∧
    ∀ (x : Reg) (s : State), ∃ t, exec (.loadRegs x) s = .next t ∧
      (∀ k : Reg, k ≤ x → t.reg k = s.readByte (s.ea k.val)) ∧
      Frame (fun p => ∃ k : Reg, k ≤ x ∧ p = .v k) s t

/-- spec/43_index_memory.md (R154, R155): what Fx55 stored, Fx65 with the same I and the same memory brings back, in
whatever registers meanwhile. -/
def Obligations.LoadBlockUndoesStoreBlock : Prop :=
  ∀ (x : Reg) (s : State), ∃ t, exec (.storeRegs x) s = .next t ∧
    ∀ u : State, u.i = s.i → (∀ a, u.readByte a = t.readByte a) →
      ∃ r, exec (.loadRegs x) u = .next r ∧ ∀ k : Reg, k ≤ x → r.reg k = s.reg k

/-- spec/20_memory.md section 3 (an inference of R56): the sixteen addresses one instruction can touch are distinct
and in memory. -/
def Obligations.BlockAddressesAreDistinct : Prop :=
  ∀ (s : State) (j k : Nat), j < 16 → k < 16 → s.ea j < 4096 ∧ (s.ea j = s.ea k → j = k)

/-! ## Display -/

/-- spec/44_display.md R171: 00E0. -/
def Obligations.ClearTurnsEveryPixelOff : Prop :=
  decodeWord 0x00E0 = .ok .cls ∧
    ∀ s : State, ∃ t, exec .cls s = .next t ∧ (∀ r c, t.fb.pixel r c = false) ∧
      Frame (fun p => ∃ r c, p = .pixel r c) s t

/-- spec/44_display.md (R172, decisions D22, D23): Dxyn flips exactly the pixels under the sprite's set bits, each
wrapped on both axes; VF is 1 when one of them was on, else 0; `x` or `y` may be 15. -/
def Obligations.DrawFlipsThePixelsUnderTheSprite : Prop :=
  Encoded 0xF000 0xD000 (fun w => .drw (xField w) (yField w) (rowsField w)) ∧
    ∀ (x y : Reg) (n : Fin 16) (s : State), ∃ t, exec (.drw x y n) s = .next t ∧
      (∀ r c, t.fb.pixel r c =
        (s.fb.pixel r c != spriteBit s (s.reg x).toNat (s.reg y).toNat n.val r c)) ∧
      (t.reg 15 = 1 ↔ ∃ r c, s.fb.pixel r c = true ∧
        spriteBit s (s.reg x).toNat (s.reg y).toNat n.val r c = true) ∧
      (t.reg 15 = 0 ∨ t.reg 15 = 1) ∧
      Frame (fun p => p = .v 15 ∨ ∃ r c, p = .pixel r c) s t

/-- spec/44_display.md (R172): the same sprite drawn again at the same place gives every pixel back, and reports a
collision exactly when the first draw turned a pixel on. -/
def Obligations.DrawingTwiceRestoresThePixels : Prop :=
  ∀ (x y : Reg) (n : Fin 16) (s : State), ∃ t, exec (.drw x y n) s = .next t ∧
    ∀ (u : State) (x' y' : Reg), u.fb = t.fb → u.i = s.i → (∀ a, u.readByte a = s.readByte a) →
      u.reg x' = s.reg x → u.reg y' = s.reg y →
      ∃ r, exec (.drw x' y' n) u = .next r ∧ r.fb = s.fb ∧
        (r.reg 15 = 1 ↔ ∃ i j, s.fb.pixel i j = false ∧ t.fb.pixel i j = true)

/-! ## Keys, timers and random -/

/-- spec/45_keys_timers_random.md section 1 (R187, decision D25): Fx0A, level-sensitive; with no key down it goes back
to itself, else it stores the smallest index of a key that is down. -/
def Obligations.KeyWaitPollsTheLowestKey : Prop :=
  Encoded 0xF0FF 0xF00A (fun w => .ldKey (xField w)) ∧
    ∀ (x : Reg) (s : State),
      (s.keys = 0 → ∃ t, exec (.ldKey x) s = .next t ∧ t.pc = s.pc - 2 ∧ Frame (fun p => p = .pc) s t) ∧
        ∀ k : Fin 16, s.keyDown k = true → (∀ j : Fin 16, j < k → s.keyDown j = false) →
          ∃ t, exec (.ldKey x) s = .next t ∧ (t.reg x).toNat = k.val ∧ Frame (fun p => p = .v x) s t

/-- spec/45_keys_timers_random.md section 2: Fx07, Fx15, Fx18, and what the same step's decay then makes of the timers:
a read sees DT before it, a written value is lowered by it. The order is the spec's decision D4, the saturating decay
its decision D32 (log 13). -/
def Obligations.TimerTransfersComeBeforeTheDecay : Prop :=
  Encoded 0xF0FF 0xF007 (fun w => .ldFromDt (xField w)) ∧ Encoded 0xF0FF 0xF015 (fun w => .ldDt (xField w)) ∧
    Encoded 0xF0FF 0xF018 (fun w => .ldSt (xField w)) ∧
    ∀ (x : Reg) (s : State),
      (∃ t, exec (.ldFromDt x) s = .next t ∧ t.reg x = s.dt ∧ Frame (fun p => p = .v x) s t) ∧
        (∃ t, exec (.ldDt x) s = .next t ∧ t.dt = s.reg x ∧ Frame (fun p => p = .dt) s t) ∧
        (∃ t, exec (.ldSt x) s = .next t ∧ t.st = s.reg x ∧ Frame (fun p => p = .st) s t) ∧
        (Running s →
          (Fetches s (.ldFromDt x) → ∃ t, step s = .next t ∧ t.reg x = s.dt ∧
            t.dt.toNat = s.dt.toNat - s.ticks) ∧
          (Fetches s (.ldDt x) → ∃ t, step s = .next t ∧ t.dt.toNat = (s.reg x).toNat - s.ticks) ∧
          (Fetches s (.ldSt x) → ∃ t, step s = .next t ∧ t.st.toNat = (s.reg x).toNat - s.ticks ∧
            (t.soundActive = true ↔ s.ticks < (s.reg x).toNat)))

/-- spec/45_keys_timers_random.md section 3 (R191, decision D26): Cxnn stores the step's random byte under the mask,
for every value of that byte (log 4). -/
def Obligations.RandomByteIsMasked : Prop :=
  Encoded 0xF000 0xC000 (fun w => .rnd (xField w) (nnField w)) ∧
    ∀ (x : Reg) (nn : Byte) (s : State), ∃ t, exec (.rnd x nn) s = .next t ∧
      (∀ b, (t.reg x).getLsbD b = (s.rnd.getLsbD b && nn.getLsbD b)) ∧ Frame (fun p => p = .v x) s t

/-! ## What cannot be observed -/

/-- spec/10_state.md section 4 (an inference of R23, decision D12): whatever step is taken, two states that differ at
most in the upper four bits of I go on so, and stop alike. -/
def Obligations.UpperIndexBitsAreUnobservable : Prop :=
  ∀ s t s' : State, SameButUpperI s t → step s = .next s' → ∃ t', step t = .next t' ∧ SameButUpperI s' t'

/-- spec/10_state.md section 4 (R25): whatever step is taken, two states that differ at most in stack entries at or
above SP go on so. -/
def Obligations.DeadStackEntriesAreUnobservable : Prop :=
  ∀ s t s' : State, SameButDeadStack s t → step s = .next s' → ∃ t', step t = .next t' ∧ SameButDeadStack s' t'

/-- spec/10_state.md section 5 (R27, decision D3): no instruction reads ST. Whatever step is taken, two states that
differ at most in ST go on so; only `IsSoundActive` tells them apart. -/
def Obligations.SoundTimerIsReadByNoInstruction : Prop :=
  ∀ s t s' : State, SameButSound s t → step s = .next s' → ∃ t', step t = .next t' ∧ SameButSound s' t'

/-- spec/10_state.md section 6 (R29, decision D5) with spec/45_keys_timers_random.md section 1 (decisions D24, D25):
every step, the first after reset included, sees the keys as the host has left them, a free input (log 3), whatever KEYS held
before; Fx0A waits at its own address or takes the lowest of them, and Ex9E and ExA1 test them. -/
def Obligations.EachStepSeesTheKeysTheHostLeft : Prop :=
  ∀ s : State,
    (∀ keys, step { s with keys := keys } = step s) ∧
      (Running s → ∀ x : Reg,
        (Fetches s (.ldKey x) → s.hostKeys = 0 → ∃ t, step s = .next t ∧ t.pc = s.pc ∧ t.reg x = s.reg x) ∧
          (Fetches s (.ldKey x) → ∀ k : Fin 16, s.hostKeys.getLsbD k.val = true →
            (∀ j : Fin 16, j < k → s.hostKeys.getLsbD j.val = false) →
            ∃ t, step s = .next t ∧ t.pc.toNat = s.pc.toNat + 2 ∧ (t.reg x).toNat = k.val) ∧
          (Fetches s (.skp x) → ∃ t, step s = .next t ∧
            t.pc.toNat = s.pc.toNat + (if s.hostKeys.getLsbD ((s.reg x).toNat % 16) = true then 4 else 2)) ∧
          (Fetches s (.sknp x) → ∃ t, step s = .next t ∧
            t.pc.toNat = s.pc.toNat + (if s.hostKeys.getLsbD ((s.reg x).toNat % 16) = false then 4 else 2)))
end

