-- ==== Sys2Proof/Laws/Decode.lean ====
section
/-! SUPPORT. The fields of an encoded word, format by format, the bytes of a word, and a word as the sum of its
fields. -/

namespace Sys2Proof

theorem opField_toNat (w : Word) : (opField w).toNat = w.toNat / 4096 := by
  have := w.isLt
  simp only [opField, BitVec.extractLsb'_toNat, Nat.shiftRight_eq_div_pow]
  omega

theorem xField_val (w : Word) : (xField w).val = w.toNat / 256 % 16 := by
  simp only [xField, BitVec.extractLsb'_toNat, Nat.shiftRight_eq_div_pow]

theorem yField_val (w : Word) : (yField w).val = w.toNat / 16 % 16 := by
  simp only [yField, BitVec.extractLsb'_toNat, Nat.shiftRight_eq_div_pow]

theorem nField_toNat (w : Word) : (nField w).toNat = w.toNat % 16 := by
  simp only [nField, BitVec.extractLsb'_toNat, Nat.shiftRight_eq_div_pow, Nat.pow_zero, Nat.div_one]

theorem nnField_toNat (w : Word) : (nnField w).toNat = w.toNat % 256 := by
  simp only [nnField, BitVec.extractLsb'_toNat, Nat.shiftRight_eq_div_pow, Nat.pow_zero, Nat.div_one]

theorem nnnField_toNat (w : Word) : (nnnField w).toNat = w.toNat % 4096 := by
  simp only [nnnField, BitVec.extractLsb'_toNat, Nat.shiftRight_eq_div_pow, Nat.pow_zero, Nat.div_one]

theorem append_toNat {m n : Nat} (a : BitVec m) (b : BitVec n) : (a ++ b).toNat = 2 ^ n * a.toNat + b.toNat := by
  rw [BitVec.toNat_append, Nat.shiftLeft_eq, Nat.mul_comm, Nat.two_pow_add_eq_or_of_lt b.isLt]

theorem regBits_toNat (x : Reg) : (regBits x).toNat = x.val := by
  have := x.isLt
  rw [regBits, BitVec.toNat_ofNat, Nat.mod_eq_of_lt (by omega)]

theorem encodeNNN_toNat (op : BitVec 4) (nnn : Addr) : (encodeNNN op nnn).toNat = 4096 * op.toNat + nnn.toNat :=
  append_toNat op nnn

theorem encodeXNN_toNat (op : BitVec 4) (x : Reg) (nn : Byte) :
    (encodeXNN op x nn).toNat = 4096 * op.toNat + 256 * x.val + nn.toNat := by
  have h1 : (encodeXNN op x nn).toNat = _ := append_toNat (op ++ regBits x) nn
  have h2 := append_toNat op (regBits x)
  rw [regBits_toNat] at h2
  omega

theorem encodeXYN_toNat (op : BitVec 4) (x y : Reg) (n : BitVec 4) :
    (encodeXYN op x y n).toNat = 4096 * op.toNat + 256 * x.val + 16 * y.val + n.toNat := by
  have h1 : (encodeXYN op x y n).toNat = _ := append_toNat (op ++ regBits x ++ regBits y) n
  have h2 := append_toNat (op ++ regBits x) (regBits y)
  have h3 := append_toNat op (regBits x)
  rw [regBits_toNat] at h2 h3
  omega

/-- The sixteen families. -/
theorem family_cases (o : BitVec 4) :
    o = 0x0#4 ∨ o = 0x1#4 ∨ o = 0x2#4 ∨ o = 0x3#4 ∨ o = 0x4#4 ∨ o = 0x5#4 ∨ o = 0x6#4 ∨ o = 0x7#4 ∨ o = 0x8#4 ∨
      o = 0x9#4 ∨ o = 0xA#4 ∨ o = 0xB#4 ∨ o = 0xC#4 ∨ o = 0xD#4 ∨ o = 0xE#4 ∨ o = 0xF#4 := by
  revert o
  decide

/-! ### Format NNN -/

@[simp] theorem opField_encodeNNN (op : BitVec 4) (nnn : Addr) : opField (encodeNNN op nnn) = op := by
  have := nnn.isLt
  apply BitVec.eq_of_toNat_eq
  rw [opField_toNat, encodeNNN_toNat]
  omega

@[simp] theorem nnnField_encodeNNN (op : BitVec 4) (nnn : Addr) : nnnField (encodeNNN op nnn) = nnn := by
  have := nnn.isLt
  apply BitVec.eq_of_toNat_eq
  rw [nnnField_toNat, encodeNNN_toNat]
  omega

/-! ### Formats XNN and X -/

@[simp] theorem opField_encodeXNN (op : BitVec 4) (x : Reg) (nn : Byte) : opField (encodeXNN op x nn) = op := by
  have := nn.isLt
  have := x.isLt
  apply BitVec.eq_of_toNat_eq
  rw [opField_toNat, encodeXNN_toNat]
  omega

@[simp] theorem xField_encodeXNN (op : BitVec 4) (x : Reg) (nn : Byte) : xField (encodeXNN op x nn) = x := by
  have := nn.isLt
  have := x.isLt
  apply Fin.ext
  rw [xField_val, encodeXNN_toNat]
  omega

@[simp] theorem nnField_encodeXNN (op : BitVec 4) (x : Reg) (nn : Byte) : nnField (encodeXNN op x nn) = nn := by
  have := nn.isLt
  apply BitVec.eq_of_toNat_eq
  rw [nnField_toNat, encodeXNN_toNat]
  omega

/-! ### Formats XY and XYN -/

@[simp] theorem opField_encodeXYN (op : BitVec 4) (x y : Reg) (n : BitVec 4) :
    opField (encodeXYN op x y n) = op := by
  have := n.isLt
  have := x.isLt
  have := y.isLt
  apply BitVec.eq_of_toNat_eq
  rw [opField_toNat, encodeXYN_toNat]
  omega

@[simp] theorem xField_encodeXYN (op : BitVec 4) (x y : Reg) (n : BitVec 4) :
    xField (encodeXYN op x y n) = x := by
  have := n.isLt
  have := x.isLt
  have := y.isLt
  apply Fin.ext
  rw [xField_val, encodeXYN_toNat]
  omega

@[simp] theorem yField_encodeXYN (op : BitVec 4) (x y : Reg) (n : BitVec 4) :
    yField (encodeXYN op x y n) = y := by
  have := n.isLt
  have := y.isLt
  apply Fin.ext
  rw [yField_val, encodeXYN_toNat]
  omega

@[simp] theorem nField_encodeXYN (op : BitVec 4) (x y : Reg) (n : BitVec 4) :
    nField (encodeXYN op x y n) = n := by
  have := n.isLt
  apply BitVec.eq_of_toNat_eq
  rw [nField_toNat, encodeXYN_toNat]
  omega

/-! ### The masks of the opcode table -/

theorem and_mask_op (w : Word) : w &&& 0xF000#16 = (opField w ++ 0#12 : BitVec 16) := by
  apply BitVec.eq_of_getLsbD_eq
  intro i hi
  simp only [opField, BitVec.getLsbD_append, BitVec.getLsbD_and, BitVec.getLsbD_extractLsb']
  interval_cases i <;> simp

theorem and_mask_opN (w : Word) : w &&& 0xF00F#16 = (opField w ++ 0#8 ++ nField w : BitVec 16) := by
  apply BitVec.eq_of_getLsbD_eq
  intro i hi
  simp only [opField, nField, BitVec.getLsbD_append, BitVec.getLsbD_and, BitVec.getLsbD_extractLsb']
  interval_cases i <;> simp

theorem and_mask_opNn (w : Word) : w &&& 0xF0FF#16 = (opField w ++ 0#4 ++ nnField w : BitVec 16) := by
  apply BitVec.eq_of_getLsbD_eq
  intro i hi
  simp only [opField, nnField, BitVec.getLsbD_append, BitVec.getLsbD_and, BitVec.getLsbD_extractLsb']
  interval_cases i <;> simp

theorem fields_of_mask_all {w v : Word} (h : w &&& 0xFFFF#16 = v) : w = v := by
  rw [← h]
  apply BitVec.eq_of_getLsbD_eq
  intro i hi
  simp only [BitVec.getLsbD_and]
  interval_cases i <;> simp

theorem fields_of_mask_op {w v : Word} (h : w &&& 0xF000#16 = v) : opField w = opField v := by
  rw [← h]
  apply BitVec.eq_of_getLsbD_eq
  intro i hi
  simp only [opField, BitVec.getLsbD_extractLsb', BitVec.getLsbD_and]
  interval_cases i <;> simp

theorem fields_of_mask_opN {w v : Word} (h : w &&& 0xF00F#16 = v) :
    opField w = opField v ∧ nField w = nField v := by
  rw [← h]
  constructor <;>
  · apply BitVec.eq_of_getLsbD_eq
    intro i hi
    simp only [opField, nField, BitVec.getLsbD_extractLsb', BitVec.getLsbD_and]
    interval_cases i <;> simp

theorem fields_of_mask_opNn {w v : Word} (h : w &&& 0xF0FF#16 = v) :
    opField w = opField v ∧ nnField w = nnField v := by
  rw [← h]
  constructor <;>
  · apply BitVec.eq_of_getLsbD_eq
    intro i hi
    simp only [opField, nnField, BitVec.getLsbD_extractLsb', BitVec.getLsbD_and]
    interval_cases i <;> simp

/-! ### Words and bytes -/

/-- A word is its family and its `nnn`. -/
theorem encodeNNN_fields (w : Word) : encodeNNN (opField w) (nnnField w) = w := by
  apply BitVec.eq_of_toNat_eq
  rw [encodeNNN_toNat, opField_toNat, nnnField_toNat]
  omega

/-- A word is its family, its `x` and its `nn`. -/
theorem encodeXNN_fields (w : Word) : encodeXNN (opField w) (xField w) (nnField w) = w := by
  apply BitVec.eq_of_toNat_eq
  rw [encodeXNN_toNat, opField_toNat, xField_val, nnField_toNat]
  omega

/-- A word is its family, its `x`, its `y` and its `n`. -/
theorem encodeXYN_fields (w : Word) : encodeXYN (opField w) (xField w) (yField w) (nField w) = w := by
  apply BitVec.eq_of_toNat_eq
  rw [encodeXYN_toNat, opField_toNat, xField_val, yField_val, nField_toNat]
  omega

/-- The two stored bytes of a word make the word again. -/
@[simp] theorem wordOfBytes_bytes (w : Word) : wordOfBytes (highByte w) (lowByte w) = w := by
  apply BitVec.eq_of_toNat_eq
  rw [wordOfBytes]
  refine (append_toNat _ _).trans ?_
  have := w.isLt
  simp only [highByte, lowByte, BitVec.extractLsb'_toNat, Nat.shiftRight_eq_div_pow]
  omega

end Sys2Proof
end

