-- ==== Sys2Proof/Laws/Memory.lean ====
section
/-! SUPPORT. Memory: a read after a write, in any list of cells, and the canonical form kept by every operation. -/

namespace Sys2Proof.Machine

theorem Memory.lookup_put (a a' : Nat) (b : Byte) (m : List Host.Cell) :
    Memory.lookup a' (Memory.put a b m) = if a' = a then some b else Memory.lookup a' m := by
  induction m with
  | nil => rfl
  | cons cell rest ih =>
    obtain ⟨k, c⟩ := cell
    simp only [Memory.put]
    split_ifs <;> simp_all [Memory.lookup]

theorem Memory.lookup_drop (a a' : Nat) (m : List Host.Cell) :
    Memory.lookup a' (Memory.drop a m) = if a' = a then none else Memory.lookup a' m := by
  induction m with
  | nil => simp [Memory.drop, Memory.lookup]
  | cons cell rest ih =>
    obtain ⟨k, c⟩ := cell
    simp only [Memory.drop]
    split_ifs <;> simp_all [Memory.lookup]

/-- What a write does to every address. -/
theorem Memory.read_write (base : Fin 0x1B1) (m : List Host.Cell) (a a' : Nat) (b : Byte) :
    Memory.read base (Memory.write base m a b) a' = if a' = a then b else Memory.read base m a' := by
  simp only [Memory.read, Memory.write]
  split_ifs <;> simp_all [Memory.lookup_put, Memory.lookup_drop]

/-- What a run of writes does to every address. -/
theorem Memory.read_writeBytes (base : Fin 0x1B1) (bytes : List Byte) (m : List Host.Cell) (a a' : Nat) :
    Memory.read base (Memory.writeBytes base m a bytes) a' =
      if a ≤ a' ∧ a' < a + bytes.length then bytes.getD (a' - a) 0 else Memory.read base m a' := by
  induction bytes generalizing m a with
  | nil => simp [Memory.writeBytes, show ¬(a ≤ a' ∧ a' < a) by omega]
  | cons b rest ih =>
    rw [Memory.writeBytes, ih, Memory.read_write]
    simp only [List.length_cons]
    by_cases h : a' = a
    · subst h
      simp
    · by_cases hin : a + 1 ≤ a' ∧ a' < a + 1 + rest.length
      · rw [if_pos hin, if_pos (by omega), show a' - a = (a' - (a + 1)) + 1 by omega, List.getD_cons_succ]
      · rw [if_neg hin, if_neg h, if_neg (by omega)]

theorem Memory.wfFrom_mono (base : Fin 0x1B1) {lo lo' : Nat} (m : List Host.Cell) (hle : lo ≤ lo')
    (h : Memory.wfFrom base lo' m = true) : Memory.wfFrom base lo m = true := by
  cases m with
  | nil => rfl
  | cons cell rest =>
    obtain ⟨k, c⟩ := cell
    simp only [Memory.wfFrom, Bool.and_eq_true, decide_eq_true_eq] at h ⊢
    exact ⟨⟨⟨by omega, h.1.1.2⟩, h.1.2⟩, h.2⟩

theorem Memory.wfFrom_put (base : Fin 0x1B1) {lo a : Nat} {b : Byte} (m : List Host.Cell) (hlo : lo ≤ a)
    (ha : a < 4096) (hb : b ≠ Memory.unlisted base a) (h : Memory.wfFrom base lo m = true) :
    Memory.wfFrom base lo (Memory.put a b m) = true := by
  induction m generalizing lo with
  | nil => simp [Memory.put, Memory.wfFrom, hlo, ha, hb]
  | cons cell rest ih =>
    obtain ⟨k, c⟩ := cell
    simp only [Memory.wfFrom, Bool.and_eq_true, decide_eq_true_eq] at h
    obtain ⟨⟨⟨h1, h2⟩, h3⟩, h4⟩ := h
    simp only [Memory.put]
    split_ifs with hlt heq
    · simp only [Memory.wfFrom, Bool.and_eq_true, decide_eq_true_eq]
      exact ⟨⟨⟨hlo, ha⟩, hb⟩, ⟨⟨by omega, h2⟩, h3⟩, h4⟩
    · subst heq
      simp only [Memory.wfFrom, Bool.and_eq_true, decide_eq_true_eq]
      exact ⟨⟨⟨hlo, ha⟩, hb⟩, h4⟩
    · simp only [Memory.wfFrom, Bool.and_eq_true, decide_eq_true_eq]
      exact ⟨⟨⟨h1, h2⟩, h3⟩, ih (by omega) h4⟩

theorem Memory.wfFrom_drop (base : Fin 0x1B1) {lo : Nat} (a : Nat) (m : List Host.Cell)
    (h : Memory.wfFrom base lo m = true) : Memory.wfFrom base lo (Memory.drop a m) = true := by
  induction m generalizing lo with
  | nil => exact h
  | cons cell rest ih =>
    obtain ⟨k, c⟩ := cell
    simp only [Memory.wfFrom, Bool.and_eq_true, decide_eq_true_eq] at h
    obtain ⟨⟨⟨h1, h2⟩, h3⟩, h4⟩ := h
    simp only [Memory.drop]
    split_ifs
    · exact Memory.wfFrom_mono base _ (by omega) (ih h4)
    · simp only [Memory.wfFrom, Bool.and_eq_true, decide_eq_true_eq]
      exact ⟨⟨⟨h1, h2⟩, h3⟩, ih h4⟩

/-- A write inside memory keeps the canonical form. -/
theorem Memory.wf_write (base : Fin 0x1B1) (m : List Host.Cell) {a : Nat} (b : Byte) (ha : a < 4096)
    (h : Memory.wf base m = true) : Memory.wf base (Memory.write base m a b) = true := by
  unfold Memory.write
  split_ifs with hb
  · exact Memory.wfFrom_drop base a m h
  · exact Memory.wfFrom_put base m (Nat.zero_le a) ha hb h

/-- A run of writes inside memory keeps the canonical form. -/
theorem Memory.wf_writeBytes (base : Fin 0x1B1) (bytes : List Byte) (m : List Host.Cell) {a : Nat}
    (ha : a + bytes.length ≤ 4096) (h : Memory.wf base m = true) :
    Memory.wf base (Memory.writeBytes base m a bytes) = true := by
  induction bytes generalizing m a with
  | nil => exact h
  | cons b rest ih =>
    simp only [List.length_cons] at ha
    exact ih _ (by omega) (Memory.wf_write base m b (by omega) h)

/-- The memory after reset is in canonical form. -/
theorem Memory.wf_reset : Memory.wf State.reset.fontBase State.reset.mem = true := rfl

end Sys2Proof.Machine
end

