-- ==== Sys2Proof/Laws/Host.lean ====
section
/-! SUPPORT. The reset contents of memory, and what the host's transactions do to a byte, a key, a pixel. -/

namespace Sys2Proof.Machine

/-- The font lies at FONT_BASE. -/
theorem Memory.read_font (base : Fin 0x1B1) {k : Nat} (hk : k < 80) :
    Memory.read base [] (base.val + k) = Config.fontData.getD k 0 := by
  have := base.isLt
  simp only [Memory.read, Memory.lookup, Memory.unlisted, Option.getD_none]
  rw [if_pos (by simp only [Config.progBase]; omega), if_pos (by omega), Nat.add_sub_cancel_left]

/-- Outside the font, memory after reset holds zeros. -/
theorem Memory.read_outside_font (base : Fin 0x1B1) {a : Nat} (h : a < base.val ∨ base.val + 80 ≤ a) :
    Memory.read base [] a = 0 := by
  simp only [Memory.read, Memory.lookup, Memory.unlisted, Option.getD_none]
  split
  · rw [if_neg (by omega)]
  · rfl

theorem programFits_iff (bytes : List Byte) : programFits bytes = true ↔ bytes.length ≤ 3584 := by
  simp [programFits]

theorem State.hostLoad_eq (s : State) (bytes : List Byte) (h : bytes.length ≤ 3584) :
    s.hostLoad bytes = ({ s with mem := Memory.writeBytes s.fontBase s.mem Config.progBase bytes }, .success) := by
  rw [State.hostLoad, if_pos ((programFits_iff bytes).2 h)]

theorem State.hostLoad_tooLarge (s : State) (bytes : List Byte) (h : 3584 < bytes.length) :
    s.hostLoad bytes = (s, .tooLarge) := by
  rw [State.hostLoad, if_neg]
  rw [programFits_iff]
  omega

/-- What a load does to every address. -/
theorem State.readByte_hostLoad (s : State) (bytes : List Byte) (a : Nat) (h : bytes.length ≤ 3584) :
    (s.hostLoad bytes).1.readByte a =
      if Config.progBase ≤ a ∧ a < Config.progBase + bytes.length then bytes.getD (a - Config.progBase) 0
      else s.readByte a := by
  rw [State.hostLoad_eq s bytes h]
  exact Memory.read_writeBytes s.fontBase bytes s.mem Config.progBase a

/-- What a key transaction does to every key. -/
theorem getLsbD_keysWith (keys : BitVec 16) (k j : Nat) (pressed : Bool) (hj : j < 16) :
    (keysWith keys k pressed).getLsbD j = if j = k then pressed else keys.getLsbD j := by
  rw [keysWith]
  by_cases h : j = k
  · subst h
    cases pressed <;> simp [hj]
  · cases pressed
    · simp [h, hj]
    · simp [BitVec.getLsbD_twoPow, h, Ne.symm h]

/-- Row `r`, column `c` of the rows written one after the other is bit `64 r + c`. -/
theorem testBit_flattenRows (l : List (BitVec 64)) (r c : Nat) (hc : c < 64) :
    (flattenRows l).testBit (r * 64 + c) = (l.getD r 0).getLsbD c := by
  induction l generalizing r with
  | nil => simp [flattenRows]
  | cons row rest ih =>
    rw [flattenRows, Nat.add_comm, Nat.testBit_two_pow_mul_add _ row.isLt]
    cases r with
    | zero => simp [hc, BitVec.getLsbD]
    | succ r =>
      rw [if_neg (by omega), show (r + 1) * 64 + c - 64 = r * 64 + c by omega, ih]
      simp

end Sys2Proof.Machine
end

