-- ==== Sys2Proof/Laws/State.lean ====
section
/-! SUPPORT. Each field of the state after each update of Machine/Ops.lean, and the fields an update leaves out. -/

namespace Sys2Proof.Machine

variable (s : State)

/-! ### State.setReg -/

@[simp] theorem State.setReg_mem (x : Reg) (b : Byte) : (s.setReg x b).mem = s.mem := rfl
@[simp] theorem State.setReg_v (x : Reg) (b : Byte) : (s.setReg x b).v = s.v.set x.val b := rfl
@[simp] theorem State.setReg_i (x : Reg) (b : Byte) : (s.setReg x b).i = s.i := rfl
@[simp] theorem State.setReg_pc (x : Reg) (b : Byte) : (s.setReg x b).pc = s.pc := rfl
@[simp] theorem State.setReg_stack (x : Reg) (b : Byte) : (s.setReg x b).stack = s.stack := rfl
@[simp] theorem State.setReg_sp (x : Reg) (b : Byte) : (s.setReg x b).sp = s.sp := rfl
@[simp] theorem State.setReg_dt (x : Reg) (b : Byte) : (s.setReg x b).dt = s.dt := rfl
@[simp] theorem State.setReg_st (x : Reg) (b : Byte) : (s.setReg x b).st = s.st := rfl
@[simp] theorem State.setReg_fb (x : Reg) (b : Byte) : (s.setReg x b).fb = s.fb := rfl
@[simp] theorem State.setReg_keys (x : Reg) (b : Byte) : (s.setReg x b).keys = s.keys := rfl
@[simp] theorem State.setReg_fault (x : Reg) (b : Byte) : (s.setReg x b).fault = s.fault := rfl
@[simp] theorem State.setReg_fontBase (x : Reg) (b : Byte) : (s.setReg x b).fontBase = s.fontBase := rfl
@[simp] theorem State.setReg_report (x : Reg) (b : Byte) : (s.setReg x b).report = s.report := rfl
@[simp] theorem State.setReg_inputs (x : Reg) (b : Byte) : (s.setReg x b).inputs = s.inputs := rfl
@[simp] theorem State.setReg_draws (x : Reg) (b : Byte) : (s.setReg x b).draws = s.draws := rfl

/-! ### State.setI -/

@[simp] theorem State.setI_mem (w : Word) : (s.setI w).mem = s.mem := rfl
@[simp] theorem State.setI_v (w : Word) : (s.setI w).v = s.v := rfl
@[simp] theorem State.setI_i (w : Word) : (s.setI w).i = w := rfl
@[simp] theorem State.setI_pc (w : Word) : (s.setI w).pc = s.pc := rfl
@[simp] theorem State.setI_stack (w : Word) : (s.setI w).stack = s.stack := rfl
@[simp] theorem State.setI_sp (w : Word) : (s.setI w).sp = s.sp := rfl
@[simp] theorem State.setI_dt (w : Word) : (s.setI w).dt = s.dt := rfl
@[simp] theorem State.setI_st (w : Word) : (s.setI w).st = s.st := rfl
@[simp] theorem State.setI_fb (w : Word) : (s.setI w).fb = s.fb := rfl
@[simp] theorem State.setI_keys (w : Word) : (s.setI w).keys = s.keys := rfl
@[simp] theorem State.setI_fault (w : Word) : (s.setI w).fault = s.fault := rfl
@[simp] theorem State.setI_fontBase (w : Word) : (s.setI w).fontBase = s.fontBase := rfl
@[simp] theorem State.setI_report (w : Word) : (s.setI w).report = s.report := rfl
@[simp] theorem State.setI_inputs (w : Word) : (s.setI w).inputs = s.inputs := rfl
@[simp] theorem State.setI_draws (w : Word) : (s.setI w).draws = s.draws := rfl

/-! ### State.setPc -/

@[simp] theorem State.setPc_mem (w : Word) : (s.setPc w).mem = s.mem := rfl
@[simp] theorem State.setPc_v (w : Word) : (s.setPc w).v = s.v := rfl
@[simp] theorem State.setPc_i (w : Word) : (s.setPc w).i = s.i := rfl
@[simp] theorem State.setPc_pc (w : Word) : (s.setPc w).pc = w := rfl
@[simp] theorem State.setPc_stack (w : Word) : (s.setPc w).stack = s.stack := rfl
@[simp] theorem State.setPc_sp (w : Word) : (s.setPc w).sp = s.sp := rfl
@[simp] theorem State.setPc_dt (w : Word) : (s.setPc w).dt = s.dt := rfl
@[simp] theorem State.setPc_st (w : Word) : (s.setPc w).st = s.st := rfl
@[simp] theorem State.setPc_fb (w : Word) : (s.setPc w).fb = s.fb := rfl
@[simp] theorem State.setPc_keys (w : Word) : (s.setPc w).keys = s.keys := rfl
@[simp] theorem State.setPc_fault (w : Word) : (s.setPc w).fault = s.fault := rfl
@[simp] theorem State.setPc_fontBase (w : Word) : (s.setPc w).fontBase = s.fontBase := rfl
@[simp] theorem State.setPc_report (w : Word) : (s.setPc w).report = s.report := rfl
@[simp] theorem State.setPc_inputs (w : Word) : (s.setPc w).inputs = s.inputs := rfl
@[simp] theorem State.setPc_draws (w : Word) : (s.setPc w).draws = s.draws := rfl

/-! ### State.advance -/

@[simp] theorem State.advance_mem : s.advance.mem = s.mem := rfl
@[simp] theorem State.advance_v : s.advance.v = s.v := rfl
@[simp] theorem State.advance_i : s.advance.i = s.i := rfl
@[simp] theorem State.advance_pc : s.advance.pc = s.pc + 2 := rfl
@[simp] theorem State.advance_stack : s.advance.stack = s.stack := rfl
@[simp] theorem State.advance_sp : s.advance.sp = s.sp := rfl
@[simp] theorem State.advance_dt : s.advance.dt = s.dt := rfl
@[simp] theorem State.advance_st : s.advance.st = s.st := rfl
@[simp] theorem State.advance_fb : s.advance.fb = s.fb := rfl
@[simp] theorem State.advance_keys : s.advance.keys = s.keys := rfl
@[simp] theorem State.advance_fault : s.advance.fault = s.fault := rfl
@[simp] theorem State.advance_fontBase : s.advance.fontBase = s.fontBase := rfl
@[simp] theorem State.advance_report : s.advance.report = s.report := rfl
@[simp] theorem State.advance_inputs : s.advance.inputs = s.inputs := rfl
@[simp] theorem State.advance_draws : s.advance.draws = s.draws := rfl

/-! ### State.setDt -/

@[simp] theorem State.setDt_mem (b : Byte) : (s.setDt b).mem = s.mem := rfl
@[simp] theorem State.setDt_v (b : Byte) : (s.setDt b).v = s.v := rfl
@[simp] theorem State.setDt_i (b : Byte) : (s.setDt b).i = s.i := rfl
@[simp] theorem State.setDt_pc (b : Byte) : (s.setDt b).pc = s.pc := rfl
@[simp] theorem State.setDt_stack (b : Byte) : (s.setDt b).stack = s.stack := rfl
@[simp] theorem State.setDt_sp (b : Byte) : (s.setDt b).sp = s.sp := rfl
@[simp] theorem State.setDt_dt (b : Byte) : (s.setDt b).dt = b := rfl
@[simp] theorem State.setDt_st (b : Byte) : (s.setDt b).st = s.st := rfl
@[simp] theorem State.setDt_fb (b : Byte) : (s.setDt b).fb = s.fb := rfl
@[simp] theorem State.setDt_keys (b : Byte) : (s.setDt b).keys = s.keys := rfl
@[simp] theorem State.setDt_fault (b : Byte) : (s.setDt b).fault = s.fault := rfl
@[simp] theorem State.setDt_fontBase (b : Byte) : (s.setDt b).fontBase = s.fontBase := rfl
@[simp] theorem State.setDt_report (b : Byte) : (s.setDt b).report = s.report := rfl
@[simp] theorem State.setDt_inputs (b : Byte) : (s.setDt b).inputs = s.inputs := rfl
@[simp] theorem State.setDt_draws (b : Byte) : (s.setDt b).draws = s.draws := rfl

/-! ### State.setSt -/

@[simp] theorem State.setSt_mem (b : Byte) : (s.setSt b).mem = s.mem := rfl
@[simp] theorem State.setSt_v (b : Byte) : (s.setSt b).v = s.v := rfl
@[simp] theorem State.setSt_i (b : Byte) : (s.setSt b).i = s.i := rfl
@[simp] theorem State.setSt_pc (b : Byte) : (s.setSt b).pc = s.pc := rfl
@[simp] theorem State.setSt_stack (b : Byte) : (s.setSt b).stack = s.stack := rfl
@[simp] theorem State.setSt_sp (b : Byte) : (s.setSt b).sp = s.sp := rfl
@[simp] theorem State.setSt_dt (b : Byte) : (s.setSt b).dt = s.dt := rfl
@[simp] theorem State.setSt_st (b : Byte) : (s.setSt b).st = b := rfl
@[simp] theorem State.setSt_fb (b : Byte) : (s.setSt b).fb = s.fb := rfl
@[simp] theorem State.setSt_keys (b : Byte) : (s.setSt b).keys = s.keys := rfl
@[simp] theorem State.setSt_fault (b : Byte) : (s.setSt b).fault = s.fault := rfl
@[simp] theorem State.setSt_fontBase (b : Byte) : (s.setSt b).fontBase = s.fontBase := rfl
@[simp] theorem State.setSt_report (b : Byte) : (s.setSt b).report = s.report := rfl
@[simp] theorem State.setSt_inputs (b : Byte) : (s.setSt b).inputs = s.inputs := rfl
@[simp] theorem State.setSt_draws (b : Byte) : (s.setSt b).draws = s.draws := rfl

/-! ### State.writeByte -/

@[simp] theorem State.writeByte_mem (a : Nat) (b : Byte) :
    (s.writeByte a b).mem = Memory.write s.fontBase s.mem a b := rfl
@[simp] theorem State.writeByte_v (a : Nat) (b : Byte) : (s.writeByte a b).v = s.v := rfl
@[simp] theorem State.writeByte_i (a : Nat) (b : Byte) : (s.writeByte a b).i = s.i := rfl
@[simp] theorem State.writeByte_pc (a : Nat) (b : Byte) : (s.writeByte a b).pc = s.pc := rfl
@[simp] theorem State.writeByte_stack (a : Nat) (b : Byte) : (s.writeByte a b).stack = s.stack := rfl
@[simp] theorem State.writeByte_sp (a : Nat) (b : Byte) : (s.writeByte a b).sp = s.sp := rfl
@[simp] theorem State.writeByte_dt (a : Nat) (b : Byte) : (s.writeByte a b).dt = s.dt := rfl
@[simp] theorem State.writeByte_st (a : Nat) (b : Byte) : (s.writeByte a b).st = s.st := rfl
@[simp] theorem State.writeByte_fb (a : Nat) (b : Byte) : (s.writeByte a b).fb = s.fb := rfl
@[simp] theorem State.writeByte_keys (a : Nat) (b : Byte) : (s.writeByte a b).keys = s.keys := rfl
@[simp] theorem State.writeByte_fault (a : Nat) (b : Byte) : (s.writeByte a b).fault = s.fault := rfl
@[simp] theorem State.writeByte_fontBase (a : Nat) (b : Byte) : (s.writeByte a b).fontBase = s.fontBase := rfl
@[simp] theorem State.writeByte_report (a : Nat) (b : Byte) : (s.writeByte a b).report = s.report := rfl
@[simp] theorem State.writeByte_inputs (a : Nat) (b : Byte) : (s.writeByte a b).inputs = s.inputs := rfl
@[simp] theorem State.writeByte_draws (a : Nat) (b : Byte) : (s.writeByte a b).draws = s.draws := rfl

/-! ### State.pushPc -/

@[simp] theorem State.pushPc_mem (h : s.sp.val < 16) : (s.pushPc h).mem = s.mem := rfl
@[simp] theorem State.pushPc_v (h : s.sp.val < 16) : (s.pushPc h).v = s.v := rfl
@[simp] theorem State.pushPc_i (h : s.sp.val < 16) : (s.pushPc h).i = s.i := rfl
@[simp] theorem State.pushPc_pc (h : s.sp.val < 16) : (s.pushPc h).pc = s.pc := rfl
@[simp] theorem State.pushPc_stack (h : s.sp.val < 16) : (s.pushPc h).stack = s.stack.set s.sp.val s.pc h := rfl
@[simp] theorem State.pushPc_sp (h : s.sp.val < 16) : (s.pushPc h).sp = ⟨s.sp.val + 1, by omega⟩ := rfl
@[simp] theorem State.pushPc_dt (h : s.sp.val < 16) : (s.pushPc h).dt = s.dt := rfl
@[simp] theorem State.pushPc_st (h : s.sp.val < 16) : (s.pushPc h).st = s.st := rfl
@[simp] theorem State.pushPc_fb (h : s.sp.val < 16) : (s.pushPc h).fb = s.fb := rfl
@[simp] theorem State.pushPc_keys (h : s.sp.val < 16) : (s.pushPc h).keys = s.keys := rfl
@[simp] theorem State.pushPc_fault (h : s.sp.val < 16) : (s.pushPc h).fault = s.fault := rfl
@[simp] theorem State.pushPc_fontBase (h : s.sp.val < 16) : (s.pushPc h).fontBase = s.fontBase := rfl
@[simp] theorem State.pushPc_report (h : s.sp.val < 16) : (s.pushPc h).report = s.report := rfl
@[simp] theorem State.pushPc_inputs (h : s.sp.val < 16) : (s.pushPc h).inputs = s.inputs := rfl
@[simp] theorem State.pushPc_draws (h : s.sp.val < 16) : (s.pushPc h).draws = s.draws := rfl

/-! ### State.popPc -/

@[simp] theorem State.popPc_mem (h : 0 < s.sp.val) : (s.popPc h).mem = s.mem := rfl
@[simp] theorem State.popPc_v (h : 0 < s.sp.val) : (s.popPc h).v = s.v := rfl
@[simp] theorem State.popPc_i (h : 0 < s.sp.val) : (s.popPc h).i = s.i := rfl
@[simp] theorem State.popPc_pc (h : 0 < s.sp.val) : (s.popPc h).pc = s.stack[s.sp.val - 1]'(by omega) := rfl
@[simp] theorem State.popPc_stack (h : 0 < s.sp.val) : (s.popPc h).stack = s.stack := rfl
@[simp] theorem State.popPc_sp (h : 0 < s.sp.val) : (s.popPc h).sp = ⟨s.sp.val - 1, by omega⟩ := rfl
@[simp] theorem State.popPc_dt (h : 0 < s.sp.val) : (s.popPc h).dt = s.dt := rfl
@[simp] theorem State.popPc_st (h : 0 < s.sp.val) : (s.popPc h).st = s.st := rfl
@[simp] theorem State.popPc_fb (h : 0 < s.sp.val) : (s.popPc h).fb = s.fb := rfl
@[simp] theorem State.popPc_keys (h : 0 < s.sp.val) : (s.popPc h).keys = s.keys := rfl
@[simp] theorem State.popPc_fault (h : 0 < s.sp.val) : (s.popPc h).fault = s.fault := rfl
@[simp] theorem State.popPc_fontBase (h : 0 < s.sp.val) : (s.popPc h).fontBase = s.fontBase := rfl
@[simp] theorem State.popPc_report (h : 0 < s.sp.val) : (s.popPc h).report = s.report := rfl
@[simp] theorem State.popPc_inputs (h : 0 < s.sp.val) : (s.popPc h).inputs = s.inputs := rfl
@[simp] theorem State.popPc_draws (h : 0 < s.sp.val) : (s.popPc h).draws = s.draws := rfl

/-! ### State.raise -/

@[simp] theorem State.raise_mem (f : Fault) : (s.raise f).mem = s.mem := rfl
@[simp] theorem State.raise_v (f : Fault) : (s.raise f).v = s.v := rfl
@[simp] theorem State.raise_i (f : Fault) : (s.raise f).i = s.i := rfl
@[simp] theorem State.raise_pc (f : Fault) : (s.raise f).pc = Config.freePc s.draws := rfl
@[simp] theorem State.raise_stack (f : Fault) : (s.raise f).stack = s.stack := rfl
@[simp] theorem State.raise_sp (f : Fault) : (s.raise f).sp = s.sp := rfl
@[simp] theorem State.raise_dt (f : Fault) : (s.raise f).dt = s.dt := rfl
@[simp] theorem State.raise_st (f : Fault) : (s.raise f).st = s.st := rfl
@[simp] theorem State.raise_fb (f : Fault) : (s.raise f).fb = s.fb := rfl
@[simp] theorem State.raise_keys (f : Fault) : (s.raise f).keys = s.keys := rfl
@[simp] theorem State.raise_fault (f : Fault) : (s.raise f).fault = some f := rfl
@[simp] theorem State.raise_fontBase (f : Fault) : (s.raise f).fontBase = s.fontBase := rfl
@[simp] theorem State.raise_report (f : Fault) : (s.raise f).report = some (.fatal f) := rfl
@[simp] theorem State.raise_inputs (f : Fault) : (s.raise f).inputs = s.inputs := rfl
@[simp] theorem State.raise_draws (f : Fault) : (s.raise f).draws = s.draws := rfl

/-! ### State.finish -/

@[simp] theorem State.finish_mem (o : StepOutcome) : (s.finish o).mem = s.mem := rfl
@[simp] theorem State.finish_v (o : StepOutcome) : (s.finish o).v = s.v := rfl
@[simp] theorem State.finish_i (o : StepOutcome) : (s.finish o).i = s.i := rfl
@[simp] theorem State.finish_pc (o : StepOutcome) : (s.finish o).pc = s.pc := rfl
@[simp] theorem State.finish_stack (o : StepOutcome) : (s.finish o).stack = s.stack := rfl
@[simp] theorem State.finish_sp (o : StepOutcome) : (s.finish o).sp = s.sp := rfl
@[simp] theorem State.finish_dt (o : StepOutcome) : (s.finish o).dt = decayed s.dt s.ticks := rfl
@[simp] theorem State.finish_st (o : StepOutcome) : (s.finish o).st = decayed s.st s.ticks := rfl
@[simp] theorem State.finish_fb (o : StepOutcome) : (s.finish o).fb = s.fb := rfl
@[simp] theorem State.finish_keys (o : StepOutcome) : (s.finish o).keys = s.keys := rfl
@[simp] theorem State.finish_fault (o : StepOutcome) : (s.finish o).fault = s.fault := rfl
@[simp] theorem State.finish_fontBase (o : StepOutcome) : (s.finish o).fontBase = s.fontBase := rfl
@[simp] theorem State.finish_report (o : StepOutcome) : (s.finish o).report = some o := rfl
@[simp] theorem State.finish_inputs (o : StepOutcome) : (s.finish o).inputs = s.inputs := rfl
@[simp] theorem State.finish_draws (o : StepOutcome) : (s.finish o).draws = s.draws := rfl

/-! ### State.hostTurn -/

@[simp] theorem State.hostTurn_mem : s.hostTurn.mem = s.mem := rfl
@[simp] theorem State.hostTurn_v : s.hostTurn.v = s.v := rfl
@[simp] theorem State.hostTurn_i : s.hostTurn.i = s.i := rfl
@[simp] theorem State.hostTurn_pc : s.hostTurn.pc = s.pc := rfl
@[simp] theorem State.hostTurn_stack : s.hostTurn.stack = s.stack := rfl
@[simp] theorem State.hostTurn_sp : s.hostTurn.sp = s.sp := rfl
@[simp] theorem State.hostTurn_dt : s.hostTurn.dt = s.dt := rfl
@[simp] theorem State.hostTurn_st : s.hostTurn.st = s.st := rfl
@[simp] theorem State.hostTurn_fb : s.hostTurn.fb = s.fb := rfl
@[simp] theorem State.hostTurn_keys : s.hostTurn.keys = s.hostKeys := rfl
@[simp] theorem State.hostTurn_fault : s.hostTurn.fault = s.fault := rfl
@[simp] theorem State.hostTurn_fontBase : s.hostTurn.fontBase = s.fontBase := rfl
@[simp] theorem State.hostTurn_report : s.hostTurn.report = s.report := rfl
@[simp] theorem State.hostTurn_inputs : s.hostTurn.inputs = s.inputs := rfl
@[simp] theorem State.hostTurn_draws : s.hostTurn.draws = s.draws := rfl

/-! ### State.useInputs -/

@[simp] theorem State.useInputs_mem : s.useInputs.mem = s.mem := rfl
@[simp] theorem State.useInputs_v : s.useInputs.v = s.v := rfl
@[simp] theorem State.useInputs_i : s.useInputs.i = s.i := rfl
@[simp] theorem State.useInputs_pc : s.useInputs.pc = s.pc := rfl
@[simp] theorem State.useInputs_stack : s.useInputs.stack = s.stack := rfl
@[simp] theorem State.useInputs_sp : s.useInputs.sp = s.sp := rfl
@[simp] theorem State.useInputs_dt : s.useInputs.dt = s.dt := rfl
@[simp] theorem State.useInputs_st : s.useInputs.st = s.st := rfl
@[simp] theorem State.useInputs_fb : s.useInputs.fb = s.fb := rfl
@[simp] theorem State.useInputs_keys : s.useInputs.keys = s.keys := rfl
@[simp] theorem State.useInputs_fault : s.useInputs.fault = s.fault := rfl
@[simp] theorem State.useInputs_fontBase : s.useInputs.fontBase = s.fontBase := rfl
@[simp] theorem State.useInputs_report : s.useInputs.report = s.report := rfl
@[simp] theorem State.useInputs_inputs : s.useInputs.inputs = s.inputs.tail := rfl
@[simp] theorem State.useInputs_draws : s.useInputs.draws = s.draws + 1 := rfl

end Sys2Proof.Machine
end

