-- ==== Sys2Proof/Laws/Operands.lean ====
section
/-! SUPPORT. What the operand forms and the skip are, as numbers and cases. -/

namespace Sys2Proof.Machine

theorem zextAddr_toNat (nnn : Addr) : (zextAddr nnn).toNat = nnn.toNat := by
  have := nnn.isLt
  rw [zextAddr, BitVec.toNat_setWidth, Nat.mod_eq_of_lt (by omega)]

theorem zextByte_toNat (b : Byte) : (zextByte b).toNat = b.toNat := by
  have := b.isLt
  rw [zextByte, BitVec.toNat_setWidth, Nat.mod_eq_of_lt (by omega)]

theorem lowNibble_val (b : Byte) : (lowNibble b).val = b.toNat % 16 := by
  have : b.toNat &&& 15 = b.toNat % 16 := Nat.and_two_pow_sub_one_eq_mod b.toNat 4
  simp [lowNibble, this]

theorem State.glyphAddr_toNat (s : State) (d : Fin 16) :
    (s.glyphAddr d).toNat = s.fontBase.val + 5 * d.val := by
  have := s.fontBase.isLt
  rw [State.glyphAddr, BitVec.toNat_ofNat, Nat.mod_eq_of_lt (by omega)]

theorem lowestKey_eq_none (keys : BitVec 16) : lowestKey keys = none ↔ keys = 0 := by
  simp only [lowestKey, List.find?_eq_none, List.mem_range]
  constructor
  · intro h
    apply BitVec.eq_of_getLsbD_eq
    intro k hk
    simpa using h k hk
  · rintro rfl
    simp

theorem lowestKey_eq_some (keys : BitVec 16) (k : Nat) :
    lowestKey keys = some k ↔ k < 16 ∧ keys.getLsbD k = true ∧ ∀ j, j < k → keys.getLsbD j = false := by
  rw [lowestKey, List.find?_range_eq_some]
  simp only [List.mem_range, Bool.not_eq_true', and_left_comm]

/-- A skip moves PC by two more, or does nothing. -/
theorem State.skipIf_eq (s : State) (c : Bool) : s.skipIf c = s.setPc (if c then s.pc + 2 else s.pc) := by
  cases c <;> rfl

end Sys2Proof.Machine
end

