-- ==== Sys2Proof/Laws/Ops.lean ====
section
/-! SUPPORT. What each shared operation does, once: registers, memory, blocks, the stack, the flag, timers, and the
framebuffer pixel by pixel. -/

namespace Sys2Proof.Machine

/-! ### Registers and the flag -/

theorem State.reg_setReg (s : State) (x y : Reg) (b : Byte) :
    (s.setReg x b).reg y = if y = x then b else s.reg y := by
  by_cases h : y = x
  · subst h
    simp [State.reg]
  · have hne : x.val ≠ y.val := fun e => h (Fin.ext e.symm)
    simp [State.reg, h, Vector.getElem_set_ne, hne]

@[simp] theorem State.reg_setReg_self (s : State) (x : Reg) (b : Byte) : (s.setReg x b).reg x = b := by
  simp [State.reg_setReg]

/-- The flag is written last: VF holds it, also when `x` is 15 (spec/42_alu.md R142). -/
theorem State.reg_setResultAndFlag (s : State) (x y : Reg) (r : Byte) (f : Bool) :
    (s.setResultAndFlag x r f).reg y = if y = 15 then flagByte f else if y = x then r else s.reg y := by
  simp [State.setResultAndFlag, State.reg_setReg, regVF]

/-- A register write and a flag write leave every field but `v`. -/
theorem State.setResultAndFlag_eq (s : State) (x : Reg) (r : Byte) (f : Bool) :
    s.setResultAndFlag x r f = { s with v := (s.setResultAndFlag x r f).v } := rfl

theorem flagByte_toNat (f : Bool) : (flagByte f).toNat = f.toNat := by cases f <;> rfl

/-! ### Memory -/

/-- What a store of one byte does to every address. -/
theorem State.readByte_writeByte (s : State) (a a' : Nat) (b : Byte) :
    (s.writeByte a b).readByte a' = if a' = a then b else s.readByte a' :=
  Memory.read_write s.fontBase s.mem a a' b

theorem State.ea_lt (s : State) (k : Nat) : s.ea k < 4096 := Nat.mod_lt _ (by decide)

theorem State.wf_writeByte (s : State) {a : Nat} (b : Byte) (ha : a < 4096)
    (h : Memory.wf s.fontBase s.mem = true) :
    Memory.wf (s.writeByte a b).fontBase (s.writeByte a b).mem = true :=
  Memory.wf_write s.fontBase s.mem b ha h

/-! ### The register block of Fx55 and Fx65 -/

/-- A block store changes nothing but the memory. -/
theorem State.storeBlock_eq (s : State) (n : Nat) : s.storeBlock n = { s with mem := (s.storeBlock n).mem } := by
  induction n with
  | zero => rfl
  | succ n ih => rw [State.storeBlock, ih]; rfl

/-- What a block store does to every address. -/
theorem State.readByte_storeBlock (s : State) (n a : Nat) (hn : n ≤ 16) :
    (∀ k, k < n → (s.storeBlock n).readByte (s.ea k) = s.reg (blockReg k)) ∧
      ((∀ k, k < n → a ≠ s.ea k) → (s.storeBlock n).readByte a = s.readByte a) := by
  induction n with
  | zero => exact ⟨by omega, fun _ => rfl⟩
  | succ n ih =>
    obtain ⟨ih1, ih2⟩ := ih (by omega)
    simp only [State.storeBlock, State.readByte_writeByte]
    constructor
    · intro k hk
      by_cases hkn : k = n
      · simp [hkn]
      · have hne : s.ea k ≠ s.ea n := by
          simp only [State.ea, Config.memSize]
          omega
        rw [if_neg hne]
        exact ih1 k (by omega)
    · intro h
      rw [if_neg (h n (by omega))]
      exact ih2 fun k hk => h k (by omega)

theorem State.wf_storeBlock (s : State) (n : Nat) (h : Memory.wf s.fontBase s.mem = true) :
    Memory.wf (s.storeBlock n).fontBase (s.storeBlock n).mem = true := by
  induction n with
  | zero => exact h
  | succ n ih => exact State.wf_writeByte _ _ (s.ea_lt n) ih

/-- A block load changes nothing but the registers. -/
theorem State.loadBlock_eq (s : State) (n : Nat) : s.loadBlock n = { s with v := (s.loadBlock n).v } := by
  induction n with
  | zero => rfl
  | succ n ih => rw [State.loadBlock, ih]; rfl

/-- What a block load does to every register. -/
theorem State.reg_loadBlock (s : State) (n : Nat) (x : Reg) (hn : n ≤ 16) :
    (s.loadBlock n).reg x = if x.val < n then s.readByte (s.ea x.val) else s.reg x := by
  induction n with
  | zero => simp [State.loadBlock]
  | succ n ih =>
    have hx : (x = blockReg n) ↔ x.val = n := by
      rw [Fin.ext_iff, show (blockReg n).val = n % 16 from rfl, Nat.mod_eq_of_lt (by omega)]
    rw [State.loadBlock, State.reg_setReg, ih (by omega)]
    split_ifs with h1 h2 h3 <;> first | rfl | (rw [hx] at h1; simp [h1]) | (rw [hx] at h1; omega)

/-! ### The stack -/

theorem State.stackAt_pushPc (s : State) (h : s.sp.val < 16) (k : Fin 16) :
    (s.pushPc h).stackAt k = if k.val = s.sp.val then s.pc else s.stackAt k := by
  simp [State.stackAt, Vector.getElem_set, eq_comm]

/-! ### Timers -/

theorem decayed_toNat (b : Byte) (n : Nat) : (decayed b n).toNat = b.toNat - n := by
  have := b.isLt
  rw [decayed, BitVec.toNat_ofNat, Nat.mod_eq_of_lt (by omega)]

/-! ### The framebuffer -/

theorem Framebuffer.pixel_blank (r : Fin 32) (c : Fin 64) : Framebuffer.blank.pixel r c = false := by
  simp [Framebuffer.pixel, Framebuffer.blank]

/-- A flip changes exactly its pixel. -/
theorem Framebuffer.pixel_flip (fb : Framebuffer) (r r' : Fin 32) (c c' : Fin 64) :
    (fb.flip r c).pixel r' c' = (fb.pixel r' c' != (decide (r' = r) && decide (c' = c))) := by
  by_cases hr : r' = r
  · subst hr
    simp [Framebuffer.pixel, Framebuffer.flip, Fin.ext_iff, eq_comm]
  · have hne : r.val ≠ r'.val := fun e => hr (Fin.ext e.symm)
    simp [Framebuffer.pixel, Framebuffer.flip, hr, Vector.getElem_set_ne, hne]

theorem Drawing.pixel_dot (d : Drawing) (bit : Bool) (r r' : Fin 32) (c c' : Fin 64) :
    (d.dot bit r c).fb.pixel r' c' = (d.fb.pixel r' c' != (bit && decide (r' = r) && decide (c' = c))) := by
  cases bit <;> simp [Drawing.dot, Framebuffer.pixel_flip]

theorem Drawing.hit_dot (d : Drawing) (bit : Bool) (r : Fin 32) (c : Fin 64) :
    (d.dot bit r c).hit = (d.hit || (bit && d.fb.pixel r c)) := by
  cases bit <;> simp [Drawing.dot]

/-- Whether the first `count` columns of a sprite row `b`, drawn from column `x0`, cover column `c` with a 1. -/
def rowBit (b : Byte) (x0 count : Nat) (c : Fin 64) : Bool :=
  decide ((c.val + 64 - x0 % 64) % 64 < count) && b.getLsbD (7 - (c.val + 64 - x0 % 64) % 64)

theorem eq_wrapColumn (x0 i : Nat) (c : Fin 64) (hi : i < 64) :
    c = wrapColumn (x0 + i) ↔ (c.val + 64 - x0 % 64) % 64 = i := by
  have := c.isLt
  rw [Fin.ext_iff, show (wrapColumn (x0 + i)).val = (x0 + i) % 64 from rfl]
  omega

theorem rowBit_succ (b : Byte) (x0 i : Nat) (c : Fin 64) (hi : i < 64) :
    rowBit b x0 (i + 1) c = (rowBit b x0 i c || (b.getLsbD (7 - i) && decide (c = wrapColumn (x0 + i)))) := by
  simp only [eq_wrapColumn x0 i c hi, rowBit]
  by_cases h : (c.val + 64 - x0 % 64) % 64 = i
  · simp [h]
  · have h' : (c.val + 64 - x0 % 64) % 64 < i + 1 ↔ (c.val + 64 - x0 % 64) % 64 < i := by omega
    simp [h, h']

/-- The column drawn next is not yet covered. -/
theorem rowBit_fresh (b : Byte) (x0 i : Nat) (hi : i < 64) : rowBit b x0 i (wrapColumn (x0 + i)) = false := by
  have h := (eq_wrapColumn x0 i (wrapColumn (x0 + i)) hi).1 rfl
  simp [rowBit, h]

/-- A sprite row flips exactly the pixels under its set bits. -/
theorem Drawing.pixel_row (d : Drawing) (b : Byte) (r r' : Fin 32) (x0 n : Nat) (c : Fin 64) (hn : n ≤ 64) :
    (d.row b r x0 n).fb.pixel r' c = (d.fb.pixel r' c != (decide (r' = r) && rowBit b x0 n c)) := by
  induction n with
  | zero => simp [Drawing.row, rowBit]
  | succ i ih =>
    rw [Drawing.row, Drawing.pixel_dot, ih (by omega), rowBit_succ _ _ _ _ (by omega)]
    by_cases hc : c = wrapColumn (x0 + i)
    · subst hc
      simp [rowBit_fresh b x0 i (by omega), Bool.and_comm]
    · simp [hc]

/-- A sprite row hits when a pixel under one of its set bits was on. -/
theorem Drawing.hit_row (d : Drawing) (b : Byte) (r : Fin 32) (x0 n : Nat) (hn : n ≤ 64) :
    (d.row b r x0 n).hit = true ↔ d.hit = true ∨ ∃ c, rowBit b x0 n c = true ∧ d.fb.pixel r c = true := by
  induction n with
  | zero => simp [Drawing.row, rowBit]
  | succ i ih =>
    have hfresh := rowBit_fresh b x0 i (by omega)
    rw [Drawing.row, Drawing.hit_dot, Drawing.pixel_row _ _ _ _ _ _ _ (by omega), hfresh, Bool.or_eq_true,
      ih (by omega), or_assoc]
    simp only [rowBit_succ b x0 i _ (show i < 64 by omega), Bool.or_eq_true, Bool.and_eq_true, decide_eq_true_eq,
      Bool.and_false, Bool.bne_false]
    refine or_congr_right ⟨?_, ?_⟩
    · rintro (⟨c, hc, hp⟩ | ⟨hb, hp⟩)
      · exact ⟨c, .inl hc, hp⟩
      · exact ⟨_, .inr ⟨hb, rfl⟩, hp⟩
    · rintro ⟨c, hc | ⟨hb, rfl⟩, hp⟩
      · exact .inl ⟨c, hc, hp⟩
      · exact .inr ⟨hb, hp⟩

end Sys2Proof.Machine
end

