-- ==== Sys2Proof/Laws/PerInstr.lean ====
section
/-! SUPPORT. The family of statements made per instruction: the encoded word selects the row of the opcode table that
has the instruction's mnemonic. -/

namespace Sys2Proof.Laws.Row

open Sys2Proof

/-- Some row of spec/30_encoding.md R74 has the instruction's mnemonic, and its mask and match select the instruction's
word. -/
def Statement (i : Instr) : Prop := ∃ r ∈ opcodeTable, r.mnemonic = i.mnemonic ∧ r.selects (encode i) = true

theorem selects_op {m : String} {v w : Word} (h : (opField w ++ 0#12 : BitVec 16) = v) :
    OpcodeRow.selects ⟨m, 0xF000, v⟩ w = true := by
  rw [OpcodeRow.selects, beq_iff_eq]
  exact (and_mask_op w).trans h

theorem selects_opN {m : String} {v w : Word} (h : (opField w ++ 0#8 ++ nField w : BitVec 16) = v) :
    OpcodeRow.selects ⟨m, 0xF00F, v⟩ w = true := by
  rw [OpcodeRow.selects, beq_iff_eq]
  exact (and_mask_opN w).trans h

theorem selects_opNn {m : String} {v w : Word} (h : (opField w ++ 0#4 ++ nnField w : BitVec 16) = v) :
    OpcodeRow.selects ⟨m, 0xF0FF, v⟩ w = true := by
  rw [OpcodeRow.selects, beq_iff_eq]
  exact (and_mask_opNn w).trans h

theorem cls : Statement .cls :=
  ⟨⟨"CLS", 0xFFFF, 0x00E0⟩, by decide, rfl, by decide⟩

theorem ret : Statement .ret :=
  ⟨⟨"RET", 0xFFFF, 0x00EE⟩, by decide, rfl, by decide⟩

theorem jp (nnn : Addr) : Statement (.jp nnn) :=
  ⟨⟨"JP_nnn", 0xF000, 0x1000⟩, by decide, rfl, selects_op (by simp [encode])⟩

theorem call (nnn : Addr) : Statement (.call nnn) :=
  ⟨⟨"CALL_nnn", 0xF000, 0x2000⟩, by decide, rfl, selects_op (by simp [encode])⟩

theorem seImm (x : Reg) (nn : Byte) : Statement (.seImm x nn) :=
  ⟨⟨"SE_Vx__nn", 0xF000, 0x3000⟩, by decide, rfl, selects_op (by simp [encode])⟩

theorem sneImm (x : Reg) (nn : Byte) : Statement (.sneImm x nn) :=
  ⟨⟨"SNE_Vx__nn", 0xF000, 0x4000⟩, by decide, rfl, selects_op (by simp [encode])⟩

theorem seReg (x y : Reg) : Statement (.seReg x y) :=
  ⟨⟨"SE_Vx__Vy", 0xF00F, 0x5000⟩, by decide, rfl, selects_opN (by simp [encode])⟩

theorem ldImm (x : Reg) (nn : Byte) : Statement (.ldImm x nn) :=
  ⟨⟨"LD_Vx__nn", 0xF000, 0x6000⟩, by decide, rfl, selects_op (by simp [encode])⟩

theorem addImm (x : Reg) (nn : Byte) : Statement (.addImm x nn) :=
  ⟨⟨"ADD_Vx__nn", 0xF000, 0x7000⟩, by decide, rfl, selects_op (by simp [encode])⟩

theorem ldReg (x y : Reg) : Statement (.ldReg x y) :=
  ⟨⟨"LD_Vx__Vy", 0xF00F, 0x8000⟩, by decide, rfl, selects_opN (by simp [encode])⟩

theorem orReg (x y : Reg) : Statement (.orReg x y) :=
  ⟨⟨"OR_Vx__Vy", 0xF00F, 0x8001⟩, by decide, rfl, selects_opN (by simp [encode])⟩

theorem andReg (x y : Reg) : Statement (.andReg x y) :=
  ⟨⟨"AND_Vx__Vy", 0xF00F, 0x8002⟩, by decide, rfl, selects_opN (by simp [encode])⟩

theorem xorReg (x y : Reg) : Statement (.xorReg x y) :=
  ⟨⟨"XOR_Vx__Vy", 0xF00F, 0x8003⟩, by decide, rfl, selects_opN (by simp [encode])⟩

theorem addReg (x y : Reg) : Statement (.addReg x y) :=
  ⟨⟨"ADD_Vx__Vy", 0xF00F, 0x8004⟩, by decide, rfl, selects_opN (by simp [encode])⟩

theorem sub (x y : Reg) : Statement (.sub x y) :=
  ⟨⟨"SUB_Vx__Vy", 0xF00F, 0x8005⟩, by decide, rfl, selects_opN (by simp [encode])⟩

theorem shr (x y : Reg) : Statement (.shr x y) :=
  ⟨⟨"SHR_Vx", 0xF00F, 0x8006⟩, by decide, rfl, selects_opN (by simp [encode])⟩

theorem subn (x y : Reg) : Statement (.subn x y) :=
  ⟨⟨"SUBN_Vx__Vy", 0xF00F, 0x8007⟩, by decide, rfl, selects_opN (by simp [encode])⟩

theorem shl (x y : Reg) : Statement (.shl x y) :=
  ⟨⟨"SHL_Vx", 0xF00F, 0x800E⟩, by decide, rfl, selects_opN (by simp [encode])⟩

theorem sneReg (x y : Reg) : Statement (.sneReg x y) :=
  ⟨⟨"SNE_Vx__Vy", 0xF00F, 0x9000⟩, by decide, rfl, selects_opN (by simp [encode])⟩

theorem ldI (nnn : Addr) : Statement (.ldI nnn) :=
  ⟨⟨"LD_I__nnn", 0xF000, 0xA000⟩, by decide, rfl, selects_op (by simp [encode])⟩

theorem jpV0 (nnn : Addr) : Statement (.jpV0 nnn) :=
  ⟨⟨"JP_V0__nnn", 0xF000, 0xB000⟩, by decide, rfl, selects_op (by simp [encode])⟩

theorem rnd (x : Reg) (nn : Byte) : Statement (.rnd x nn) :=
  ⟨⟨"RND_Vx__nn", 0xF000, 0xC000⟩, by decide, rfl, selects_op (by simp [encode])⟩

theorem drw (x y : Reg) (n : Fin 16) : Statement (.drw x y n) :=
  ⟨⟨"DRW_Vx__Vy__n", 0xF000, 0xD000⟩, by decide, rfl, selects_op (by simp [encode])⟩

theorem skp (x : Reg) : Statement (.skp x) :=
  ⟨⟨"SKP_Vx", 0xF0FF, 0xE09E⟩, by decide, rfl, selects_opNn (by simp [encode])⟩

theorem sknp (x : Reg) : Statement (.sknp x) :=
  ⟨⟨"SKNP_Vx", 0xF0FF, 0xE0A1⟩, by decide, rfl, selects_opNn (by simp [encode])⟩

theorem ldFromDt (x : Reg) : Statement (.ldFromDt x) :=
  ⟨⟨"LD_Vx__DT", 0xF0FF, 0xF007⟩, by decide, rfl, selects_opNn (by simp [encode])⟩

theorem ldKey (x : Reg) : Statement (.ldKey x) :=
  ⟨⟨"LD_Vx__K", 0xF0FF, 0xF00A⟩, by decide, rfl, selects_opNn (by simp [encode])⟩

theorem ldDt (x : Reg) : Statement (.ldDt x) :=
  ⟨⟨"LD_DT__Vx", 0xF0FF, 0xF015⟩, by decide, rfl, selects_opNn (by simp [encode])⟩

theorem ldSt (x : Reg) : Statement (.ldSt x) :=
  ⟨⟨"LD_ST__Vx", 0xF0FF, 0xF018⟩, by decide, rfl, selects_opNn (by simp [encode])⟩

theorem addI (x : Reg) : Statement (.addI x) :=
  ⟨⟨"ADD_I__Vx", 0xF0FF, 0xF01E⟩, by decide, rfl, selects_opNn (by simp [encode])⟩

theorem ldFont (x : Reg) : Statement (.ldFont x) :=
  ⟨⟨"LD_F__Vx", 0xF0FF, 0xF029⟩, by decide, rfl, selects_opNn (by simp [encode])⟩

theorem ldBcd (x : Reg) : Statement (.ldBcd x) :=
  ⟨⟨"LD_B__Vx", 0xF0FF, 0xF033⟩, by decide, rfl, selects_opNn (by simp [encode])⟩

theorem storeRegs (x : Reg) : Statement (.storeRegs x) :=
  ⟨⟨"LD__I___Vx", 0xF0FF, 0xF055⟩, by decide, rfl, selects_opNn (by simp [encode])⟩

theorem loadRegs (x : Reg) : Statement (.loadRegs x) :=
  ⟨⟨"LD_Vx___I", 0xF0FF, 0xF065⟩, by decide, rfl, selects_opNn (by simp [encode])⟩

end Sys2Proof.Laws.Row
end

