-- ==== Sys2Proof/Laws/Sprite.lean ====
section
/-! SUPPORT. What a sprite draw does to every pixel, and when it hits. -/

namespace Sys2Proof.Machine

open Sys2Proof.Safety

theorem eq_wrapRow (y0 j : Nat) (r : Fin 32) (hj : j < 32) :
    r = wrapRow (y0 + j) ↔ (r.val + 32 - y0 % 32) % 32 = j := by
  have := r.isLt
  rw [Fin.ext_iff, show (wrapRow (y0 + j)).val = (y0 + j) % 32 from rfl]
  omega

theorem spriteBit_succ (s : State) (x0 y0 j : Nat) (r : Fin 32) (c : Fin 64) (hj : j < 32) :
    spriteBit s x0 y0 (j + 1) r c =
      (spriteBit s x0 y0 j r c || (decide (r = wrapRow (y0 + j)) && rowBit (s.readByte (s.ea j)) x0 8 c)) := by
  simp only [eq_wrapRow y0 j r hj, spriteBit, rowBit]
  by_cases h : (r.val + 32 - y0 % 32) % 32 = j
  · simp [h]
  · have h' : (r.val + 32 - y0 % 32) % 32 < j + 1 ↔ (r.val + 32 - y0 % 32) % 32 < j := by omega
    simp [h, h']

/-- The row drawn next is not yet covered. -/
theorem spriteBit_fresh (s : State) (x0 y0 j : Nat) (c : Fin 64) (hj : j < 32) :
    spriteBit s x0 y0 j (wrapRow (y0 + j)) c = false := by
  have h := (eq_wrapRow y0 j (wrapRow (y0 + j)) hj).1 rfl
  simp [spriteBit, h]

/-- A draw flips exactly the pixels under the sprite's set bits. -/
theorem State.pixel_sprite (s : State) (x0 y0 n : Nat) (r : Fin 32) (c : Fin 64) (hn : n ≤ 32) :
    (s.sprite x0 y0 n).fb.pixel r c = (s.fb.pixel r c != spriteBit s x0 y0 n r c) := by
  induction n with
  | zero => simp [State.sprite, spriteBit]
  | succ j ih =>
    rw [State.sprite, Drawing.pixel_row _ _ _ _ _ _ _ (by decide), ih (by omega), spriteBit_succ _ _ _ _ _ _ (by omega)]
    by_cases hr : r = wrapRow (y0 + j)
    · subst hr
      simp [spriteBit_fresh s x0 y0 j c (by omega)]
    · simp [hr]

/-- A draw hits when a pixel under one of the sprite's set bits was on. -/
theorem State.hit_sprite (s : State) (x0 y0 n : Nat) (hn : n ≤ 32) :
    (s.sprite x0 y0 n).hit = true ↔ ∃ r c, s.fb.pixel r c = true ∧ spriteBit s x0 y0 n r c = true := by
  induction n with
  | zero => simp [State.sprite, spriteBit]
  | succ j ih =>
    rw [State.sprite, Drawing.hit_row _ _ _ _ _ (by decide), ih (by omega)]
    simp only [State.pixel_sprite s x0 y0 j _ _ (show j ≤ 32 by omega),
      spriteBit_fresh s x0 y0 j _ (show j < 32 by omega),
      spriteBit_succ s x0 y0 j _ _ (show j < 32 by omega), Bool.bne_false, Bool.or_eq_true, Bool.and_eq_true,
      decide_eq_true_eq]
    constructor
    · rintro (⟨r, c, hp, hb⟩ | ⟨c, hb, hp⟩)
      · exact ⟨r, c, hp, .inl hb⟩
      · exact ⟨_, c, hp, .inr ⟨rfl, hb⟩⟩
    · rintro ⟨r, c, hp, hb | ⟨rfl, hb⟩⟩
      · exact .inl ⟨r, c, hp, hb⟩
      · exact .inr ⟨c, hb, hp⟩

/-- Two framebuffers with the same pixels are the same. -/
theorem Framebuffer.ext_pixel {a b : Framebuffer} (h : ∀ r c, a.pixel r c = b.pixel r c) : a = b := by
  apply Vector.ext
  intro i hi
  apply BitVec.eq_of_getLsbD_eq
  intro j hj
  exact h ⟨i, hi⟩ ⟨j, hj⟩

end Sys2Proof.Machine
end

