-- ==== Sys2Proof/Laws/Step.lean ====
section
/-! SUPPORT. What a step can do, once: every case in which it answers a next state, and when it stops. -/

namespace Sys2Proof.Machine

/-- The host's turn moves no byte: the word fetched is the same. -/
@[simp] theorem State.fetchWord_hostTurn (s : State) : s.hostTurn.fetchWord = s.fetchWord := rfl

/-- The three ways a step answers a next state: out of bounds, an unmatched word, an executed instruction. -/
theorem step_next_cases {s t : State} (h : step s = .next t) :
    s.fault = none ∧
      ((s.fetchInBounds = false ∧ t = (s.hostTurn.raise .pcOutOfBounds).useInputs) ∨
        (s.fetchInBounds = true ∧ (∃ e, decodeWord s.fetchWord = .error e) ∧
          t = s.hostTurn.endUnknown s.fetchWord s.pc) ∨
        (s.fetchInBounds = true ∧ ∃ i u, decodeWord s.fetchWord = .ok i ∧ exec i s.hostTurn.advance = .next u ∧
          t = u.endExec)) := by
  unfold step stepCore at h
  split at h
  · cases h
  · rename_i hf
    refine ⟨hf, ?_⟩
    split at h
    · rename_i hb
      unfold fetchExecute at h
      split at h
      · rename_i e he
        cases h
        exact .inr (.inl ⟨hb, ⟨e, he⟩, rfl⟩)
      · rename_i i hi
        split at h
        · rename_i u hu
          cases h
          exact .inr (.inr ⟨hb, i, u, hi, hu, rfl⟩)
        · cases h
        · cases h
    · rename_i hb
      cases h
      exact .inl ⟨by simpa using hb, rfl⟩

/-- The step of an instruction: out of `exec`, then the end of the `Step`. -/
theorem step_of_exec {s u : State} {i : Instr} (hf : s.fault = none) (hb : s.fetchInBounds = true)
    (hd : decodeWord s.fetchWord = .ok i) (hx : exec i s.hostTurn.advance = .next u) :
    step s = .next u.endExec := by
  simp [step, stepCore, fetchExecute, hf, hb, hd, hx]

/-- The step on a word that is no instruction. -/
theorem step_of_unknown {s : State} {e : DecodeError} (hf : s.fault = none) (hb : s.fetchInBounds = true)
    (hd : decodeWord s.fetchWord = .error e) : step s = .next (s.hostTurn.endUnknown s.fetchWord s.pc) := by
  simp [step, stepCore, fetchExecute, hf, hb, hd]

/-- The step with PC out of bounds. -/
theorem step_of_outOfBounds {s : State} (hf : s.fault = none) (hb : s.fetchInBounds = false) :
    step s = .next (s.hostTurn.raise .pcOutOfBounds).useInputs := by
  simp [step, stepCore, hf, hb]

/-- The step of a halted core. -/
theorem step_of_halted {s : State} {f : Fault} (hf : s.fault = some f) : step s = .fault f := by
  simp [step, stepCore, hf]

/-- The end of an instruction that latched nothing. -/
theorem State.endExec_of_running {u : State} (hf : u.fault = none) : u.endExec = (u.finish .ok).useInputs := by
  simp [State.endExec, hf]

/-- The end of an instruction that latched a condition. -/
theorem State.endExec_of_fatal {u : State} {f : Fault} (hf : u.fault = some f) : u.endExec = u.useInputs := by
  simp [State.endExec, hf]

/-- Both bytes of a fetch lie in memory exactly when PC is at most 0xFFE. -/
theorem State.fetchInBounds_iff (s : State) : s.fetchInBounds = true ↔ s.pc.toNat ≤ 0xFFE := by
  simp [State.fetchInBounds]

/-- The decoder on the two bytes at PC is the decoder on the fetched word. -/
theorem decode_fetch (s : State) (i : Instr) :
    decode [s.readByte s.pc.toNat, s.readByte (s.pc.toNat + 1)] = .ok (i, []) ↔
      decodeWord s.fetchWord = .ok i := by
  rw [decode, State.fetchWord]
  cases decodeWord (wordOfBytes (s.readByte s.pc.toNat) (s.readByte (s.pc.toNat + 1))) <;> simp [Except.map]

end Sys2Proof.Machine
end

