-- ==== Sys2Proof/Tests/Slice0.lean ====
section
/-! SUPPORT. Tests: ill-formed terms, words written out from spec/30_encoding.md R74, single steps with the results
that spec/95_test_vectors.md gives (its vector named in each comment), and, for each statement with hypotheses, a
concrete state and operands that meet them. -/

namespace Sys2Proof.Tests

open Sys2Proof.Machine Sys2Proof.Safety

/-! ## Helpers -/

/-- The start state of the vectors: after reset, FONT_BASE = 0, one `Step`'s inputs all zero. -/
def start : State := { State.reset with fontBase := 0, inputs := [{ ticks := 0, rnd := 0, keys := 0 }] }

/-- The start state with other inputs. -/
def startWith (ticks : Nat) (rnd : Byte) : State :=
  { start with inputs := [{ ticks := ticks, rnd := rnd, keys := 0 }] }

/-- The start state with keys down when the `Step` begins. -/
def startKeys (keys : BitVec 16) : State := { start with inputs := [{ ticks := 0, rnd := 0, keys := keys }] }

/-- What `part` reads from the state after one `Step` that runs the word `w`. -/
def after {α : Type} (w : Nat) (s : State) (part : State → α) : Option α :=
  match step (s.withFetchWord 16 w) with
  | .next t => some (part t)
  | _ => none

/-- The pixels that are on, as (row, column), row by row. -/
def lit (t : State) : List (Nat × Nat) :=
  (List.finRange 32).flatMap fun r =>
    ((List.finRange 64).filter fun c => t.fb.pixel r c).map fun c => (r.val, c.val)

/-- The state with some pixels flipped. -/
def flipped (s : State) (ps : List (Fin 32 × Fin 64)) : State :=
  { s with fb := ps.foldl (fun fb p => fb.flip p.1 p.2) s.fb }

/-- The state with bytes stored from an address up. -/
def poked (s : State) (a : Nat) (bytes : List Byte) : State :=
  { s with mem := Memory.writeBytes s.fontBase s.mem a bytes }

/-! ## Well-formedness: a term for each check, which the check refuses -/

/-- One unmatched word of each family of R76. -/
theorem test_words_ill_formed :
    wordWellFormed 0x0000 = false ∧ wordWellFormed 0x5121 = false ∧ wordWellFormed 0x8128 = false ∧
      wordWellFormed 0x9121 = false ∧ wordWellFormed 0xE19F = false ∧ wordWellFormed 0xF130 = false := by decide

/-- Their nearest neighbours are instructions. -/
theorem test_words_well_formed :
    wordWellFormed 0x00E0 = true ∧ wordWellFormed 0x5120 = true ∧ wordWellFormed 0x812E = true ∧
      wordWellFormed 0x9120 = true ∧ wordWellFormed 0xE19E = true ∧ wordWellFormed 0xF133 = true := by decide

/-- R205: 3584 bytes fit, one more does not. -/
theorem test_program_too_large :
    programFits (List.replicate 3585 0) = false ∧ programFits (List.replicate 3584 0) = true := by
  rw [programFits, programFits, List.length_replicate, List.length_replicate]
  decide

/-- R214: 16 names no key. -/
theorem test_key_index_ill_formed : keyIndexOk 16 = false ∧ keyIndexOk 15 = true := by decide

/-! ## Decoding: every constructor, by a word written out digit by digit from its pattern in R74 -/

theorem test_decode_flow :
    decodeWord 0x00E0 = .ok .cls ∧ decodeWord 0x00EE = .ok .ret ∧ decodeWord 0x1204 = .ok (.jp 0x204) ∧
      decodeWord 0x2ABC = .ok (.call 0xABC) ∧ decodeWord 0x3C42 = .ok (.seImm 12 0x42) ∧
      decodeWord 0x4A1F = .ok (.sneImm 10 0x1F) ∧ decodeWord 0x5AB0 = .ok (.seReg 10 11) ∧
      decodeWord 0x9CD0 = .ok (.sneReg 12 13) ∧ decodeWord 0xB3F2 = .ok (.jpV0 0x3F2) := by decide

theorem test_decode_alu :
    decodeWord 0x6A2F = .ok (.ldImm 10 0x2F) ∧ decodeWord 0x71FE = .ok (.addImm 1 0xFE) ∧
      decodeWord 0x8AB0 = .ok (.ldReg 10 11) ∧ decodeWord 0x8AB1 = .ok (.orReg 10 11) ∧
      decodeWord 0x8AB2 = .ok (.andReg 10 11) ∧ decodeWord 0x8AB3 = .ok (.xorReg 10 11) ∧
      decodeWord 0x8AB4 = .ok (.addReg 10 11) ∧ decodeWord 0x8AB5 = .ok (.sub 10 11) ∧
      decodeWord 0x8AB6 = .ok (.shr 10 11) ∧ decodeWord 0x8AB7 = .ok (.subn 10 11) ∧
      decodeWord 0x8ABE = .ok (.shl 10 11) := by decide

theorem test_decode_memory_display :
    decodeWord 0xA2F0 = .ok (.ldI 0x2F0) ∧ decodeWord 0xF61E = .ok (.addI 6) ∧
      decodeWord 0xF729 = .ok (.ldFont 7) ∧ decodeWord 0xF833 = .ok (.ldBcd 8) ∧
      decodeWord 0xF955 = .ok (.storeRegs 9) ∧ decodeWord 0xF765 = .ok (.loadRegs 7) ∧
      decodeWord 0xD12F = .ok (.drw 1 2 15) := by decide

theorem test_decode_inputs :
    decodeWord 0xC30F = .ok (.rnd 3 0x0F) ∧ decodeWord 0xE59E = .ok (.skp 5) ∧
      decodeWord 0xE6A1 = .ok (.sknp 6) ∧ decodeWord 0xF307 = .ok (.ldFromDt 3) ∧
      decodeWord 0xF40A = .ok (.ldKey 4) ∧ decodeWord 0xF215 = .ok (.ldDt 2) ∧
      decodeWord 0xF118 = .ok (.ldSt 1) := by decide

/-- W1 to W20, the unmatched words of the vectors, some of each family. -/
theorem test_decode_unknown :
    [0x0000, 0x00E1, 0x00EF, 0x0123, 0x00FF, 0x5121, 0x512F, 0x8128, 0x812D, 0x812F, 0x9121, 0xE19F, 0xE1A0, 0xE000,
      0xF100, 0xF130, 0xF175, 0xF185, 0xF000, 0xFFFF].all
      (fun w => decide (decodeWord w = .error (.unknownOpcode w))) = true := by decide

/-- The two bytes of a word, high byte at the lower address (R70, R54), and too few bytes. -/
theorem test_decode_bytes :
    decode [0x22, 0x0A, 0x12] = .ok (.call 0x20A, [0x12]) ∧ decode [0x22] = .error .truncated ∧
      decodeTableWord 16 0x220A = some (.call 0x20A) ∧ decodeTableWord 16 0x5121 = none := by decide

/-- Encoding writes the same words. -/
theorem test_encode :
    encode (.call 0xABC) = 0x2ABC ∧ encode (.sneImm 10 0x1F) = 0x4A1F ∧ encode (.shr 10 11) = 0x8AB6 ∧
      encode (.drw 1 2 15) = 0xD12F ∧ encode (.loadRegs 7) = 0xF765 := by decide

/-! ## Single steps and transactions -/

/-- G1: VF is not written. -/
theorem test_cls_turns_all_off :
    after 0x00E0 ((flipped start [(0, 0), (31, 63), (10, 20)]).setReg 15 1) (fun t => (lit t, t.reg 15, t.pc)) =
      some ([], 1, 0x202) := by decide

/-- F3: the top entry of a full stack. -/
theorem test_ret_pops_the_top :
    after 0x00EE { start with pc := 0x300, sp := 16, stack := (start.stack.set 15 0xABC).set 14 0x222 }
      (fun t => (t.pc, t.sp, t.fault)) = some (0xABC, 15, none) := by decide

/-- F2: fatal, no decay, SP kept. -/
theorem test_ret_underflows :
    after 0x00EE { startWith 5 0 with dt := 9 } (fun t => (t.fault, t.report, t.dt, t.sp)) =
      some (some .stackUnderflow, some (.fatal .stackUnderflow), 9, 0) := by decide

/-- F7: any target is accepted. -/
theorem test_jp_to_the_last_byte :
    after 0x1FFF start (fun t => (t.pc, t.fault, t.report)) = some (0xFFF, none, some .ok) := by decide

/-- F12: at the top of memory. -/
theorem test_call_pushes_the_next_address :
    after 0x2300 { start with pc := 0xFFE } (fun t => (t.pc, t.sp, t.stackAt 0)) = some (0x300, 1, 0x1000) := by decide

/-- F11: nothing pushed, no decay. -/
theorem test_call_overflows :
    after 0x2300 { startWith 2 0 with sp := 16, st := 7 } (fun t => (t.fault, t.sp, t.st, t.stackAt 15)) =
      some (some .stackOverflow, 16, 7, 0) := by decide

/-- F14. -/
theorem test_jpV0_is_not_masked :
    after 0xBFFF (start.setReg 0 0xFF) (fun t => t.pc) = some 0x10FE := by decide

/-- F15: V0, not V2. -/
theorem test_jpV0_ignores_its_x :
    after 0xB210 (start.setReg 2 0x55) (fun t => t.pc) = some 0x210 := by decide

/-- F16. -/
theorem test_seImm_taken :
    after 0x332A (start.setReg 3 0x2A) (fun t => t.pc) = some 0x204 := by decide

/-- F17. -/
theorem test_seImm_not_taken :
    after 0x332B (start.setReg 3 0x2A) (fun t => t.pc) = some 0x202 := by decide

/-- F18. -/
theorem test_sneImm_not_taken :
    after 0x432A (start.setReg 3 0x2A) (fun t => t.pc) = some 0x202 := by decide

/-- F19. -/
theorem test_sneImm_taken :
    after 0x432B (start.setReg 3 0x2A) (fun t => t.pc) = some 0x204 := by decide

/-- F20. -/
theorem test_seReg_taken :
    after 0x5120 ((start.setReg 1 7).setReg 2 7) (fun t => t.pc) = some 0x204 := by decide

/-- F21. -/
theorem test_seReg_not_taken :
    after 0x5120 ((start.setReg 1 7).setReg 2 8) (fun t => t.pc) = some 0x202 := by decide

/-- F23. -/
theorem test_sneReg_taken :
    after 0x9120 ((start.setReg 1 7).setReg 2 8) (fun t => t.pc) = some 0x204 := by decide

/-- F24. -/
theorem test_sneReg_not_taken :
    after 0x9120 ((start.setReg 1 7).setReg 2 7) (fun t => t.pc) = some 0x202 := by decide

/-- A1. -/
theorem test_ldImm :
    after 0x6A2F start (fun t => (t.reg 10, t.pc)) = some (0x2F, 0x202) := by decide

/-- A3. -/
theorem test_addImm_wraps_without_flag :
    after 0x7002 ((start.setReg 0 0xFF).setReg 15 0x55) (fun t => (t.reg 0, t.reg 15)) = some (1, 0x55) := by decide

/-- A5: VF untouched. -/
theorem test_ldReg :
    after 0x8120 (((start.setReg 1 0x11).setReg 2 0x7C).setReg 15 0x55) (fun t => (t.reg 1, t.reg 15)) =
      some (0x7C, 0x55) := by decide

/-- A6: VF untouched. -/
theorem test_orReg :
    after 0x8121 (((start.setReg 1 0xF0).setReg 2 0x0F).setReg 15 0x55) (fun t => (t.reg 1, t.reg 15)) =
      some (0xFF, 0x55) := by decide

/-- A7: VF untouched. -/
theorem test_andReg :
    after 0x8122 (((start.setReg 1 0xF3).setReg 2 0x3C).setReg 15 0x55) (fun t => (t.reg 1, t.reg 15)) =
      some (0x30, 0x55) := by decide

/-- A8: VF untouched. -/
theorem test_xorReg :
    after 0x8123 (((start.setReg 1 0xFF).setReg 2 0x0F).setReg 15 0x55) (fun t => (t.reg 1, t.reg 15)) =
      some (0xF0, 0x55) := by decide

/-- S2a, the source's own example. -/
theorem test_addReg_carries :
    after 0x8124 ((start.setReg 1 0xFF).setReg 2 1) (fun t => (t.reg 1, t.reg 15)) = some (0, 1) := by decide

/-- A11: the carry overwrites the sum. -/
theorem test_addReg_into_flag :
    after 0x8F14 ((start.setReg 1 0x20).setReg 15 0xF0) (fun t => (t.reg 15, t.reg 1)) = some (1, 0x20) := by decide

/-- A12: no borrow. -/
theorem test_sub_equal_operands :
    after 0x8125 ((start.setReg 1 0x42).setReg 2 0x42) (fun t => (t.reg 1, t.reg 15)) = some (0, 1) := by decide

/-- S3a, the source's own example. -/
theorem test_sub_borrows :
    after 0x8125 ((start.setReg 1 0x05).setReg 2 0x0A) (fun t => (t.reg 1, t.reg 15)) = some (0xFB, 0) := by decide

/-- A20. -/
theorem test_shr_ignores_y :
    after 0x8126 (((start.setReg 1 0x04).setReg 2 0xFF).setReg 15 1) (fun t => (t.reg 1, t.reg 2, t.reg 15)) =
      some (2, 0xFF, 0) := by decide

/-- A21: the old bit 0 overwrites the result. -/
theorem test_shr_into_flag :
    after 0x8F06 (start.setReg 15 3) (fun t => t.reg 15) = some 1 := by decide

/-- A18. -/
theorem test_subn_borrows :
    after 0x8127 (((start.setReg 1 0x0A).setReg 2 0x05).setReg 15 1) (fun t => (t.reg 1, t.reg 2, t.reg 15)) =
      some (0xFB, 5, 0) := by decide

/-- A29: the old VF is the minuend. -/
theorem test_subn_flag_as_minuend :
    after 0x81F7 (start.setReg 15 1) (fun t => (t.reg 1, t.reg 15)) = some (1, 1) := by decide

/-- S4, the source's own example. -/
theorem test_shl_sets_the_lost_bit :
    after 0x812E (start.setReg 1 0x81) (fun t => (t.reg 1, t.reg 15)) = some (2, 1) := by decide

/-- A23. -/
theorem test_shl_ignores_y :
    after 0x812E (((start.setReg 1 0x7F).setReg 2 0xFF).setReg 15 1) (fun t => (t.reg 1, t.reg 2, t.reg 15)) =
      some (0xFE, 0xFF, 0) := by decide

/-- M1. -/
theorem test_ldI_clears_the_upper_bits :
    after 0xA2F0 (start.setI 0xFFFF) (fun t => t.i) = some 0x2F0 := by decide

/-- M4. -/
theorem test_addI_wraps_without_flag :
    after 0xF11E (((start.setReg 1 2).setReg 15 0x55).setI 0xFFFF) (fun t => (t.i, t.reg 15)) = some (1, 0x55) :=
  by decide

/-- M7. -/
theorem test_ldFont_uses_the_low_nibble :
    after 0xF329 (start.setReg 3 0x1A) (fun t => t.i) = some 0x32 := by decide

/-- M8 with FONT_BASE = 0x1B0: its highest address. -/
theorem test_ldFont_adds_the_base :
    after 0xF329 { start.setReg 3 0xFF with fontBase := 0x1B0 } (fun t => t.i) = some 0x1FB := by decide

/-- M13: 123 at 0xFFF, 0x000, 0x001. -/
theorem test_ldBcd_wraps_over_the_font :
    after 0xF033 ((start.setReg 0 0x7B).setI 0xFFF) (fun t => (t.readByte 0xFFF, t.readByte 0, t.readByte 1, t.i)) =
      some (1, 2, 3, 0xFFF) := by decide

/-- M11: 255. -/
theorem test_ldBcd_digits :
    after 0xF033 ((start.setReg 0 0xFF).setI 0x300) (fun t => (t.readByte 0x300, t.readByte 0x301, t.readByte 0x302)) =
      some (2, 5, 5) := by decide

/-- M15. -/
theorem test_storeRegs_stops_after_Vx :
    after 0xF255 ((((start.setReg 0 0x11).setReg 1 0x22).setReg 2 0x33).setReg 3 0x44 |>.setI 0x300)
      (fun t => ([0x300, 0x301, 0x302, 0x303].map t.readByte, t.i)) = some ([0x11, 0x22, 0x33, 0], 0x300) := by decide

/-- M17, its first, eighth, ninth and last byte, and the font byte after them. -/
theorem test_storeRegs_wraps :
    after 0xFF55 { start with v := Vector.ofFn fun k => 0xA0 + BitVec.ofNat 8 k.val, i := 0xFF8 }
      (fun t => [0xFF8, 0xFFF, 0x000, 0x007, 0x008].map t.readByte) = some [0xA0, 0xA7, 0xA8, 0xAF, 0x20] := by decide

/-- M18. -/
theorem test_loadRegs_stops_after_Vx :
    after 0xF265 ((poked start 0x300 [1, 5, 7, 9]).setReg 3 0x77 |>.setI 0x300)
      (fun t => ([0, 1, 2, 3].map t.reg, t.i)) = some ([1, 5, 7, 0x77], 0x300) := by decide

/-- M21. -/
theorem test_loadRegs_wraps_into_the_font :
    after 0xF165 ((poked start 0xFFF [0x77]).setI 0xFFF) (fun t => (t.reg 0, t.reg 1)) = some (0x77, 0xF0) := by decide

/-- G6: (126, 63) is (62, 31). -/
theorem test_drw_wraps_on_both_axes :
    after 0xD122 (((poked start 0x300 [0xC3, 0x81]).setReg 1 0x7E).setReg 2 0x3F |>.setI 0x300)
      (fun t => (lit t, t.reg 15)) = some ([(0, 5), (0, 62), (31, 4), (31, 5), (31, 62), (31, 63)], 0) := by decide

/-- G7: one pixel turned off, one on. -/
theorem test_drw_collides :
    after 0xD121 ((flipped (poked start 0x300 [0xC0]) [(0, 0)]).setI 0x300) (fun t => (lit t, t.reg 15)) =
      some ([(0, 1)], 1) := by decide

/-- Y3. -/
theorem test_skp_uses_the_low_nibble :
    after 0xE09E ((startKeys 0x0020).setReg 0 0x15) (fun t => t.pc) = some 0x204 := by decide

/-- Y2. -/
theorem test_skp_not_taken :
    after 0xE09E ((startKeys 0x0020).setReg 0 4) (fun t => t.pc) = some 0x202 := by decide

/-- Y6. -/
theorem test_sknp_uses_the_low_nibble :
    after 0xE0A1 ((startKeys 0x8000).setReg 0 0xFF) (fun t => t.pc) = some 0x202 := by decide

/-- Y5. -/
theorem test_sknp_taken :
    after 0xE0A1 (start.setReg 0 5) (fun t => t.pc) = some 0x204 := by decide

/-- Y8: PC back, the timers decay. -/
theorem test_ldKey_waits :
    after 0xF10A { (startWith 1 0).setReg 1 0x77 with dt := 3 } (fun t => (t.pc, t.reg 1, t.dt, t.report)) =
      some (0x200, 0x77, 2, some .ok) := by decide

/-- Y9: keys 3 and 7. -/
theorem test_ldKey_takes_the_lowest :
    after 0xF10A ((startKeys 0x0088).setReg 1 0x77) (fun t => (t.pc, t.reg 1)) = some (0x202, 3) := by decide

/-- T1. -/
theorem test_ldFromDt_reads_before_the_decay :
    after 0xF307 { startWith 1 0 with dt := 42 } (fun t => (t.reg 3, t.dt)) = some (42, 41) := by decide

/-- T5. -/
theorem test_ldDt_decays_at_once :
    after 0xF215 ((startWith 2 0).setReg 2 0x3C) (fun t => t.dt) = some 58 := by decide

/-- T9: silent again. -/
theorem test_ldSt_decays_at_once :
    after 0xF218 ((startWith 5 0).setReg 2 5) (fun t => (t.st, t.soundActive)) = some (0, false) := by decide

/-- Q1. -/
theorem test_rnd_masks :
    after 0xC30F (startWith 0 0xA7) (fun t => t.reg 3) = some 7 := by decide

/-- T13 at 0x200: advanced, decayed, reported. -/
theorem test_unknown_word_is_reported :
    after 0x0000 { startWith 1 0 with dt := 3, st := 2 } (fun t => (t.pc, t.dt, t.st, t.report)) =
      some (0x202, 2, 1, some (.unknownOpcode 0 0x200)) := by decide

/-- X1: latched, DT kept. -/
theorem test_pc_out_of_bounds :
    after 0x6A01 { startWith 1 0 with pc := 0xFFF, dt := 5 } (fun t => (t.fault, t.dt, t.reg 10)) =
      some (some .pcOutOfBounds, 5, 0) := by decide

/-- X4: the last address a fetch can use. -/
theorem test_last_fetch :
    after 0x6A01 { start with pc := 0xFFE } (fun t => (t.pc, t.reg 10)) = some (0x1000, 1) := by decide

/-- X7. -/
theorem test_halted_core_stops :
    step ({ start with dt := 5, fault := some .stackUnderflow }.withFetchWord 16 0x6A01) =
      .fault .stackUnderflow := rfl

/-- R31, R35: the first row of glyph 0, the last of glyph F, and the byte after it. -/
theorem test_reset_memory_has_the_font :
    [0x000, 0x04B, 0x04F, 0x050, 0x200, 0xFFF].map start.readByte = [0xF0, 0xF0, 0x80, 0, 0, 0] := by decide

/-- J8. -/
theorem test_framebuffer_is_row_major :
    [0, 63, 1984, 1, 64, 2047].map (flipped start [(0, 0), (0, 63), (31, 0)]).framebufferBits.getLsbD =
      [true, true, true, false, false, false] := by decide +kernel

/-- J3, J4. -/
theorem test_keys_are_set_and_released :
    keysWith 0x0000 5 true = 0x0020 ∧ keysWith 0x8020 5 false = 0x8000 := by decide

/-- L4: two bytes, the next one kept. -/
theorem test_load_leaves_the_rest :
    [0x200, 0x201, 0x202].map ((poked start 0x202 [0xAA]).hostLoad [0x12, 0x00]).1.readByte = [0x12, 0, 0xAA] :=
  by decide

/-- J9: nothing loaded. -/
theorem test_step_transaction_reports :
    (match transact (.step 0 0) start with
      | .next (u, r) => decide (u.pc = 0x202 ∧ r = .stepped (.unknownOpcode 0 0x200))
      | _ => false) = true := by decide

/-! ## Witnesses: for each statement with hypotheses, a state and operands that meet them -/

/-- The start state with the word `w` where it is fetched. -/
def holding (w : Nat) (s : State) : State := s.withFetchWord 16 w

/-- Some word selects a row, and some word selects none. -/
theorem witness_DecoderFollowsTheOpcodeTable :
    (∃ r ∈ opcodeTable, r.selects 0xD12F = true) ∧ ∀ r ∈ opcodeTable, r.selects 0x5AB1 = false := by decide

theorem witness_EncodeOfDecodeIsTheWord : decodeWord 0x81F6 = .ok (.shr 1 15) := by decide

/-- At the lowest and at the highest address of a fetch. -/
theorem witness_StepRunsTheDecodedInstruction :
    (Running (holding 0x8124 { start with pc := 0 }) ∧
        Fetches (holding 0x8124 { start with pc := 0 }) (.addReg 1 2)) ∧
      Running (holding 0x8124 { start with pc := 0xFFE }) ∧
        Fetches (holding 0x8124 { start with pc := 0xFFE }) (.addReg 1 2) :=
  ⟨⟨⟨rfl, by decide⟩, rfl⟩, ⟨rfl, by decide⟩, rfl⟩

/-- A halted state and one that is not. -/
theorem witness_StepStopsExactlyWhenHalted :
    step { start with fault := some .stackOverflow } = .fault .stackOverflow ∧ start.fault = none := ⟨rfl, rfl⟩

/-- Each condition is latched by some step, at the boundary of its range, and by none just beside it. -/
theorem witness_FatalConditionsAreExactlyThree :
    (∃ t, step { start with pc := 0xFFF } = .next t ∧ t.fault = some .pcOutOfBounds) ∧
      (∃ t, step (holding 0x00EE start) = .next t ∧ t.fault = some .stackUnderflow) ∧
      (∃ t, step (holding 0x2300 { start with sp := 16 }) = .next t ∧ t.fault = some .stackOverflow) ∧
      (∃ t, step (holding 0x6A01 { start with pc := 0xFFE }) = .next t ∧ t.fault = none) ∧
      (∃ t, step (holding 0x00EE { start with sp := 1 }) = .next t ∧ t.fault = none) ∧
      ∃ t, step (holding 0x2300 { start with sp := 15 }) = .next t ∧ t.fault = none :=
  ⟨⟨_, rfl, rfl⟩, ⟨_, rfl, rfl⟩, ⟨_, rfl, rfl⟩, ⟨_, rfl, rfl⟩, ⟨_, rfl, rfl⟩, ⟨_, rfl, rfl⟩⟩

/-- A fatal step of each kind, from a state that is not halted. -/
theorem witness_FatalStepChangesNothingElse :
    start.fault = none ∧
      (∃ t, step { start with pc := 0x10FE } = .next t ∧ t.fault = some .pcOutOfBounds) ∧
      (∃ t, step (holding 0x00EE start) = .next t ∧ t.fault = some .stackUnderflow) ∧
      ∃ t, step (holding 0x2300 { start with sp := 16 }) = .next t ∧ t.fault = some .stackOverflow :=
  ⟨rfl, ⟨_, rfl, rfl⟩, ⟨_, rfl, rfl⟩, ⟨_, rfl, rfl⟩⟩

/-- A halted core, and each transaction that answers on it. -/
theorem witness_OnlyInitializeClearsTheLatch :
    ({ start with fault := some .pcOutOfBounds } : State).fault = some .pcOutOfBounds ∧
      (∃ u r, transact .init { start with fault := some .pcOutOfBounds } = .next (u, r)) ∧
      ∃ u r, transact (.loadProgram [0x12, 0x00]) { start with fault := some .pcOutOfBounds } = .next (u, r) :=
  ⟨rfl, ⟨_, _, rfl⟩, ⟨_, _, rfl⟩⟩

/-- An unmatched word at the highest address of a fetch. -/
theorem witness_UnknownWordOnlyAdvancesAndDecays :
    Running (holding 0x5121 { start with pc := 0xFFE }) ∧
      0x5121#16 = (holding 0x5121 { start with pc := 0xFFE }).readByte 0xFFE ++
        (holding 0x5121 { start with pc := 0xFFE }).readByte 0xFFF ∧
      decodeWord 0x5121 = .error (.unknownOpcode 0x5121) := ⟨⟨rfl, by decide⟩, by decide, by decide⟩

/-- `1200` at 0x200, the end-of-program idiom. -/
theorem witness_JumpToSelfOnlyDecaysTimers :
    Running (holding 0x1200 start) ∧ Fetches (holding 0x1200 start) (.jp 0x200) ∧
      (holding 0x1200 start).pc.toNat = (0x200 : Addr).toNat := ⟨⟨rfl, by decide⟩, rfl, by decide⟩

/-- A step from a memory that is not the reset memory. -/
theorem witness_StepKeepsMemoryCanonical :
    MemoryCanonical (holding 0xF033 (poked start 0xFFF [9])) ∧ (holding 0xF033 (poked start 0xFFF [9])).mem ≠ [] ∧
      ∃ t, step (holding 0xF033 (poked start 0xFFF [9])) = .next t :=
  ⟨by unfold MemoryCanonical; decide, by decide, _, rfl⟩

/-- A full stack of boundary values and the highest PC; and a state in which a step runs an instruction. -/
theorem witness_StepKeepsControlFlowInBounds :
    ControlFlowInBounds { start with pc := 0x10FE, sp := 16, stack := (Vector.replicate 16 0x1000).set 0 0x002 } ∧
      (∃ t, step { start with pc := 0x10FE, sp := 16, stack := (Vector.replicate 16 0x1000).set 0 0x002 } =
        .next t) ∧
      ControlFlowInBounds (holding 0x2300 { start with pc := 0xFFE }) ∧
      ∃ t, step (holding 0x2300 { start with pc := 0xFFE }) = .next t :=
  ⟨fun _ => by decide, ⟨_, rfl⟩, fun _ => by decide, ⟨_, rfl⟩⟩

theorem witness_HostTransactionsKeepInvariants :
    MemoryCanonical (poked start 0x300 [1]) ∧ ControlFlowInBounds (poked start 0x300 [1]) ∧
      ∃ u r, transact (.loadProgram [0x00, 0xEE]) (poked start 0x300 [1]) = .next (u, r) :=
  ⟨by unfold MemoryCanonical; decide, fun _ => by decide, _, _, rfl⟩

/-- An instruction of each kind of footprint. -/
theorem witness_ExecWritesOnlyItsFootprint :
    (∃ t, exec (.ret) start = .next t) ∧ (∃ t, exec (.call 0x300) { start with sp := 15 } = .next t) ∧
      (∃ t, exec (.storeRegs 15) start = .next t) ∧ ∃ t, exec (.ldKey 3) start = .next t :=
  ⟨⟨_, rfl⟩, ⟨_, rfl⟩, ⟨_, rfl⟩, ⟨_, rfl⟩⟩

/-- Each element but KEYS is changed by some instruction. -/
theorem witness_EachElementHasItsSoleWriters :
    (∃ t, exec .cls (flipped start [(31, 63)]) = .next t ∧
        t.fb.pixel 31 63 ≠ (flipped start [(31, 63)]).fb.pixel 31 63) ∧
      (∃ t, exec (.storeRegs 0) (start.setI 0xFFF |>.setReg 0 7) = .next t ∧
        t.readByte 0xFFF ≠ (start.setI 0xFFF |>.setReg 0 7).readByte 0xFFF) ∧
      (∃ t, exec (.call 0x300) start = .next t ∧ t.stackAt 0 ≠ start.stackAt 0 ∧ t.sp ≠ start.sp) ∧
      (∃ t, exec (.ldI 0xFFF) start = .next t ∧ t.i ≠ start.i) ∧
      (∃ t, exec (.ldDt 0) (start.setReg 0 1) = .next t ∧ t.dt ≠ (start.setReg 0 1).dt) ∧
      (∃ t, exec (.ldSt 0) (start.setReg 0 1) = .next t ∧ t.st ≠ (start.setReg 0 1).st) ∧
      ∃ t, exec .ret start = .next t ∧ t.fault ≠ start.fault :=
  ⟨⟨_, rfl, by decide⟩, ⟨_, rfl, by decide⟩, ⟨_, rfl, by decide, by decide⟩, ⟨_, rfl, by decide⟩,
    ⟨_, rfl, by decide⟩, ⟨_, rfl, by decide⟩, ⟨_, rfl, by decide⟩⟩

/-- The last row of the last glyph at the highest base. -/
theorem witness_FontPointerFindsTheGlyph :
    ({ start.setReg 3 0xFF with fontBase := 0x1B0 } : State).mem = [] ∧ 4 < 5 := ⟨rfl, by decide⟩

theorem witness_InitializeResetsAnyState : Transaction.step 1 0 ≠ .init := by decide

/-- The two lengths where the clauses meet, and an address in the image. -/
theorem witness_LoadProgramCopiesOrLeavesAlone :
    (List.replicate 3584 (0xFF : Byte)).length ≤ 3584 ∧ 3583 < (List.replicate 3584 (0xFF : Byte)).length ∧
      3584 < (List.replicate 3585 (0xFF : Byte)).length := by
  rw [List.length_replicate, List.length_replicate]
  decide

/-- The two indexes where the clauses meet. -/
theorem witness_SetKeyStateSetsOneKey : 15 < 16 ∧ 16 ≤ 16 := by decide

/-- A running core with an instruction that latches nothing. -/
theorem witness_StepTransactionTakesItsArguments :
    (holding 0x7F01 start).fault = none ∧ Running (holding 0x7F01 start) ∧
      Fetches (holding 0x7F01 start) (.addImm 15 1) ∧
      ∃ t, exec (.addImm 15 1) { holding 0x7F01 start with
          pc := 0x202, inputs := { ticks := 3, rnd := 9, keys := 0 } :: start.inputs } = .next t ∧
        t.fault = none := ⟨rfl, ⟨rfl, by decide⟩, rfl, _, rfl, rfl⟩

/-- The "Encoding" hypotheses of the per-instruction statements: a word of each pattern, its free digits all F. -/
theorem witness_encodings :
    0x1FFF#16 &&& 0xF000 = 0x1000 ∧ 0x2FFF#16 &&& 0xF000 = 0x2000 ∧ 0x3FFF#16 &&& 0xF000 = 0x3000 ∧
      0x4FFF#16 &&& 0xF000 = 0x4000 ∧ 0x5FF0#16 &&& 0xF00F = 0x5000 ∧ 0x6FFF#16 &&& 0xF000 = 0x6000 ∧
      0x7FFF#16 &&& 0xF000 = 0x7000 ∧ 0x8FF0#16 &&& 0xF00F = 0x8000 ∧ 0x8FF1#16 &&& 0xF00F = 0x8001 ∧
      0x8FF2#16 &&& 0xF00F = 0x8002 ∧ 0x8FF3#16 &&& 0xF00F = 0x8003 ∧ 0x8FF4#16 &&& 0xF00F = 0x8004 ∧
      0x8FF5#16 &&& 0xF00F = 0x8005 ∧ 0x8FF6#16 &&& 0xF00F = 0x8006 ∧ 0x8FF7#16 &&& 0xF00F = 0x8007 ∧
      0x8FFE#16 &&& 0xF00F = 0x800E ∧ 0x9FF0#16 &&& 0xF00F = 0x9000 ∧ 0xAFFF#16 &&& 0xF000 = 0xA000 ∧
      0xBFFF#16 &&& 0xF000 = 0xB000 ∧ 0xCFFF#16 &&& 0xF000 = 0xC000 ∧ 0xDFFF#16 &&& 0xF000 = 0xD000 ∧
      0xEF9E#16 &&& 0xF0FF = 0xE09E ∧ 0xEFA1#16 &&& 0xF0FF = 0xE0A1 ∧ 0xFF07#16 &&& 0xF0FF = 0xF007 ∧
      0xFF0A#16 &&& 0xF0FF = 0xF00A ∧ 0xFF15#16 &&& 0xF0FF = 0xF015 ∧ 0xFF18#16 &&& 0xF0FF = 0xF018 ∧
      0xFF1E#16 &&& 0xF0FF = 0xF01E ∧ 0xFF29#16 &&& 0xF0FF = 0xF029 ∧ 0xFF33#16 &&& 0xF0FF = 0xF033 ∧
      0xFF55#16 &&& 0xF0FF = 0xF055 ∧ 0xFF65#16 &&& 0xF0FF = 0xF065 := by decide

/-- A near miss of each of the two families, at both ends of the selector's range. -/
theorem witness_RegisterSkipsCompareAndSkip :
    ((0x5001#16).toNat / 4096 = 5 ∧ (0x5001#16).toNat % 16 ≠ 0) ∧
      ((0x9FFF#16).toNat / 4096 = 9 ∧ (0x9FFF#16).toNat % 16 ≠ 0) := by decide

/-- The smallest and the largest stack a return finds, and the empty one. -/
theorem witness_ReturnPopsTheTopEntry :
    ({ start with sp := 1 } : State).sp.val = (0 : Fin 16).val + 1 ∧
      ({ start with sp := 16 } : State).sp.val = (15 : Fin 16).val + 1 ∧ start.sp.val = 0 := by decide

/-- The emptiest and the fullest stack a call finds room on, and the full one. -/
theorem witness_CallPushesTheReturnAddress :
    start.sp.val = (0 : Fin 16).val ∧ ({ start with sp := 15 } : State).sp.val = (15 : Fin 16).val ∧
      ({ start with sp := 16 } : State).sp.val = 16 := by decide

/-- A call at the deepest level, and another state that has kept SP and the entry. -/
theorem witness_CallThenReturnComesBack :
    ({ start with sp := 15 } : State).sp.val = (15 : Fin 16).val ∧
      ∃ t, exec (.call 0x300) { start with sp := 15 } = .next t ∧
        ({ t with i := 7, pc := 0x344 } : State).sp = t.sp ∧
        ({ t with i := 7, pc := 0x344 } : State).stackAt 15 = t.stackAt 15 := ⟨by decide, _, rfl, rfl, rfl⟩

/-- A destination that is not VF, for the three statements of flag-writing arithmetic. -/
theorem witness_AddSetsCarryLast : (14 : Reg) ≠ 15 := by decide

theorem witness_SubtractsSetNotBorrowLast : (0 : Reg) ≠ 15 := by decide

theorem witness_ShiftsSetTheLostBitLast : (14 : Reg) ≠ 15 := by decide

/-- A flag writer, and an instruction that writes VF as an ordinary register. -/
theorem witness_FlagWritersLeaveZeroOrOne :
    (∃ t, exec (.drw 15 15 0) (start.setReg 15 9) = .next t) ∧
      ∃ t, exec (.loadRegs 15) (start.setReg 15 9) = .next t ∧ t.reg 15 ≠ (start.setReg 15 9).reg 15 :=
  ⟨⟨_, rfl⟩, _, rfl, by decide⟩

/-- Both ends of a block. -/
theorem witness_StoreBlockWritesV0ToVx : (0 : Reg) ≤ 0 ∧ (15 : Reg) ≤ 15 := by decide

theorem witness_LoadBlockReadsV0ToVx : (0 : Reg) ≤ 0 ∧ (15 : Reg) ≤ 15 := by decide

/-- Another state with the same I and the same memory, and other registers. -/
theorem witness_LoadBlockUndoesStoreBlock :
    ∃ t, exec (.storeRegs 15) (start.setI 0xFF8 |>.setReg 9 4) = .next t ∧
      (t.setReg 9 77).i = (start.setI 0xFF8 |>.setReg 9 4).i ∧ (∀ a, (t.setReg 9 77).readByte a = t.readByte a) ∧
      (9 : Reg) ≤ 15 := ⟨_, rfl, rfl, fun _ => rfl, by decide⟩

/-- Offsets at both ends of the range. -/
theorem witness_BlockAddressesAreDistinct :
    0 < 16 ∧ 15 < 16 ∧ (start.setI 0xFFFF).ea 0 = (start.setI 0xFFFF).ea 0 :=
  ⟨by decide, by decide, rfl⟩

/-- After a first draw, a state with the same pixels, I, memory and coordinates, the latter in other registers. -/
theorem witness_DrawingTwiceRestoresThePixels :
    ∃ t, exec (.drw 15 0 2) (start.setReg 15 62) = .next t ∧
      (t.setReg 3 62).fb = t.fb ∧ (t.setReg 3 62).i = (start.setReg 15 62).i ∧
      (∀ a, (t.setReg 3 62).readByte a = (start.setReg 15 62).readByte a) ∧
      (t.setReg 3 62).reg 3 = (start.setReg 15 62).reg 15 ∧ (t.setReg 3 62).reg 0 = (start.setReg 15 62).reg 0 :=
  ⟨_, rfl, rfl, rfl, fun _ => rfl, by decide, by decide⟩

/-- No key; the lowest key among all; the highest key alone. -/
theorem witness_KeyWaitPollsTheLowestKey :
    start.keys = 0 ∧ ({ start with keys := 0xFFFF } : State).keyDown 0 = true ∧
      (({ start with keys := 0x8000 } : State).keyDown 15 = true ∧
        ∀ j : Fin 16, j < 15 → ({ start with keys := 0x8000 } : State).keyDown j = false) := by decide

/-- The first step after reset: no key, the lowest key among all, the highest key alone, and both skips. -/
theorem witness_EachStepSeesTheKeysTheHostLeft :
    Running (holding 0xFF0A start) ∧ Fetches (holding 0xFF0A start) (.ldKey 15) ∧
      (holding 0xFF0A start).hostKeys = 0 ∧ (holding 0xFF0A (startKeys 0xFFFF)).hostKeys.getLsbD 0 = true ∧
      (holding 0xFF0A (startKeys 0x8000)).hostKeys.getLsbD 15 = true ∧
      (∀ j : Fin 16, j < 15 → (holding 0xFF0A (startKeys 0x8000)).hostKeys.getLsbD j.val = false) ∧
      Fetches (holding 0xE09E start) (.skp 0) ∧ Fetches (holding 0xEFA1 start) (.sknp 15) :=
  ⟨⟨rfl, by decide⟩, rfl, by decide, by decide, by decide, by decide, rfl, rfl⟩

/-- Each of the three transfers where it is fetched. -/
theorem witness_TimerTransfersComeBeforeTheDecay :
    Running (holding 0xF307 start) ∧ Fetches (holding 0xF307 start) (.ldFromDt 3) ∧
      Running (holding 0xFF15 start) ∧ Fetches (holding 0xFF15 start) (.ldDt 15) ∧
      Running (holding 0xF018 start) ∧ Fetches (holding 0xF018 start) (.ldSt 0) :=
  ⟨⟨rfl, by decide⟩, rfl, ⟨rfl, by decide⟩, rfl, ⟨rfl, by decide⟩, rfl⟩

/-- Two states with different upper bits of I, where a step adds to I. -/
theorem witness_UpperIndexBitsAreUnobservable :
    SameButUpperI (holding 0xF11E (start.setI 0xFFFF)) (holding 0xF11E (start.setI 0x0FFF)) ∧
      holding 0xF11E (start.setI 0xFFFF) ≠ holding 0xF11E (start.setI 0x0FFF) ∧
      ∃ t, step (holding 0xF11E (start.setI 0xFFFF)) = .next t := ⟨⟨by decide, rfl⟩, by decide, _, rfl⟩

/-- Two states with different dead stack entries, where a step calls. -/
theorem witness_DeadStackEntriesAreUnobservable :
    SameButDeadStack (holding 0x2300 { start with sp := 1 })
        (holding 0x2300 { start with sp := 1, stack := start.stack.set 1 0xABC }) ∧
      holding 0x2300 { start with sp := 1 } ≠
        holding 0x2300 { start with sp := 1, stack := start.stack.set 1 0xABC } ∧
      ∃ t, step (holding 0x2300 { start with sp := 1 }) = .next t :=
  ⟨⟨by decide, rfl⟩, by decide, _, rfl⟩

/-- Two states with different ST. -/
theorem witness_SoundTimerIsReadByNoInstruction :
    SameButSound (holding 0xF307 start) (holding 0xF307 (start.setSt 255)) ∧
      holding 0xF307 start ≠ holding 0xF307 (start.setSt 255) ∧ ∃ t, step (holding 0xF307 start) = .next t :=
  ⟨rfl, by decide, _, rfl⟩

end Sys2Proof.Tests
end

/-! The decoder against the opcode table (spec/30_encoding.md R71, R74 to R76, R81). A row's mask keeps exactly the fields
that the decoder reads to choose an instruction, so a word decodes as the row's value does; and a word that decodes is
the encoding of its instruction, which selects a row. -/

namespace Sys2Proof

/-- Settles O1 (R71): each field's own law says which bits it takes. -/
theorem wordFieldsAreItsBitSlices : Obligations.WordFieldsAreItsBitSlices := fun w =>
  ⟨opField_toNat w, xField_val w, yField_val w, nField_toNat w, nField_toNat w, nnField_toNat w, nnnField_toNat w⟩

/-! ### Which fields choose the instruction -/

/-- The mnemonic of the instruction a decoder answers, if it answers one. -/
def answeredMnemonic (a : Except DecodeError Instr) : Option String := a.toOption.map Instr.mnemonic

theorem answeredMnemonic_eq_some {a : Except DecodeError Instr} {m : String} :
    answeredMnemonic a = some m ↔ ∃ i, a = .ok i ∧ i.mnemonic = m := by
  unfold answeredMnemonic
  cases a <;> simp [Except.toOption]

/-- The families of one instruction each, which decode by `op` alone (R75). -/
def opFamilies : List (BitVec 4) := [0x1, 0x2, 0x3, 0x4, 0x6, 0x7, 0xA, 0xB, 0xC, 0xD]

/-- The families that decode by `n` (R75). -/
def nFamilies : List (BitVec 4) := [0x5, 0x8, 0x9]

/-- The families that decode by `nn` (R75). -/
def nnFamilies : List (BitVec 4) := [0xE, 0xF]

/-- In a family of one instruction the fields other than `op` are operands. -/
theorem answeredMnemonic_congr_op {w v : Word} (hv : opField v ∈ opFamilies) (hop : opField w = opField v) :
    answeredMnemonic (decodeWord w) = answeredMnemonic (decodeWord v) := by
  simp only [opFamilies, List.mem_cons, List.not_mem_nil, or_false] at hv
  unfold decodeWord
  rw [hop]
  obtain h | h | h | h | h | h | h | h | h | h := hv <;> rw [h] <;> rfl

theorem answeredMnemonic_ite_congr {p : Prop} [Decidable p] {a a' b b' : Except DecodeError Instr}
    (ha : answeredMnemonic a = answeredMnemonic a') (hb : answeredMnemonic b = answeredMnemonic b') :
    answeredMnemonic (if p then a else b) = answeredMnemonic (if p then a' else b') := by
  split
  · exact ha
  · exact hb

theorem answeredMnemonic_decodeN0_congr {w v : Word} {i j : Instr} (hij : i.mnemonic = j.mnemonic)
    (hn : nField w = nField v) : answeredMnemonic (decodeN0 i w) = answeredMnemonic (decodeN0 j v) := by
  rw [decodeN0, decodeN0, hn]
  exact answeredMnemonic_ite_congr (congrArg some hij) rfl

theorem answeredMnemonic_decodeFamily8_congr {w v : Word} (hn : nField w = nField v) :
    answeredMnemonic (decodeFamily8 w) = answeredMnemonic (decodeFamily8 v) := by
  unfold decodeFamily8
  rw [hn]
  split <;> rfl

theorem answeredMnemonic_decodeFamilyE_congr {w v : Word} (hnn : nnField w = nnField v) :
    answeredMnemonic (decodeFamilyE w) = answeredMnemonic (decodeFamilyE v) := by
  rw [decodeFamilyE, decodeFamilyE, hnn]
  exact answeredMnemonic_ite_congr rfl (answeredMnemonic_ite_congr rfl rfl)

theorem answeredMnemonic_decodeFamilyF_congr {w v : Word} (hnn : nnField w = nnField v) :
    answeredMnemonic (decodeFamilyF w) = answeredMnemonic (decodeFamilyF v) := by
  rw [decodeFamilyF, decodeFamilyF, hnn]
  iterate 9 refine answeredMnemonic_ite_congr rfl ?_
  rfl

theorem answeredMnemonic_congr_n {w v : Word} (hv : opField v ∈ nFamilies) (hop : opField w = opField v)
    (hn : nField w = nField v) : answeredMnemonic (decodeWord w) = answeredMnemonic (decodeWord v) := by
  simp only [nFamilies, List.mem_cons, List.not_mem_nil, or_false] at hv
  unfold decodeWord
  rw [hop]
  obtain h | h | h := hv <;> rw [h]
  · exact answeredMnemonic_decodeN0_congr rfl hn
  · exact answeredMnemonic_decodeFamily8_congr hn
  · exact answeredMnemonic_decodeN0_congr rfl hn

theorem answeredMnemonic_congr_nn {w v : Word} (hv : opField v ∈ nnFamilies) (hop : opField w = opField v)
    (hnn : nnField w = nnField v) : answeredMnemonic (decodeWord w) = answeredMnemonic (decodeWord v) := by
  simp only [nnFamilies, List.mem_cons, List.not_mem_nil, or_false] at hv
  unfold decodeWord
  rw [hop]
  obtain h | h := hv <;> rw [h]
  · exact answeredMnemonic_decodeFamilyE_congr hnn
  · exact answeredMnemonic_decodeFamilyF_congr hnn

/-! ### A selected word decodes to the row's instruction -/

/-- Each row's own value decodes to the row's mnemonic. -/
theorem answeredMnemonic_value : ∀ r ∈ opcodeTable, answeredMnemonic (decodeWord r.value) = some r.mnemonic := by
  decide

/-- Each row's mask keeps the fields by which the family of the row's value decodes. -/
theorem mask_cases : ∀ r ∈ opcodeTable,
    r.mask = 0xFFFF#16 ∨ (r.mask = 0xF000#16 ∧ opField r.value ∈ opFamilies) ∨
      (r.mask = 0xF00F#16 ∧ opField r.value ∈ nFamilies) ∨ (r.mask = 0xF0FF#16 ∧ opField r.value ∈ nnFamilies) := by
  decide

theorem answeredMnemonic_of_selects {r : OpcodeRow} {w : Word} (hr : r ∈ opcodeTable) (hs : r.selects w = true) :
    answeredMnemonic (decodeWord w) = some r.mnemonic := by
  rw [← answeredMnemonic_value r hr]
  have hm : w &&& r.mask = r.value := eq_of_beq hs
  obtain h | ⟨h, hv⟩ | ⟨h, hv⟩ | ⟨h, hv⟩ := mask_cases r hr <;> rw [h] at hm
  · rw [fields_of_mask_all hm]
  · exact answeredMnemonic_congr_op hv (fields_of_mask_op hm)
  · obtain ⟨hop, hn⟩ := fields_of_mask_opN hm
    exact answeredMnemonic_congr_n hv hop hn
  · obtain ⟨hop, hnn⟩ := fields_of_mask_opNn hm
    exact answeredMnemonic_congr_nn hv hop hnn

/-! ### A word that decodes is the word of its instruction -/

theorem encodeNNN_of_fields {w : Word} {op : BitVec 4} (hop : opField w = op) : encodeNNN op (nnnField w) = w :=
  hop ▸ encodeNNN_fields w

theorem encodeXNN_of_op {w : Word} {op : BitVec 4} (hop : opField w = op) :
    encodeXNN op (xField w) (nnField w) = w :=
  hop ▸ encodeXNN_fields w

theorem encodeXNN_of_fields {w : Word} {op : BitVec 4} {nn : Byte} (hop : opField w = op) (hnn : nnField w = nn) :
    encodeXNN op (xField w) nn = w :=
  hnn ▸ encodeXNN_of_op hop

theorem encodeXYN_of_fields {w : Word} {op n : BitVec 4} (hop : opField w = op) (hn : nField w = n) :
    encodeXYN op (xField w) (yField w) n = w :=
  hop ▸ hn ▸ encodeXYN_fields w

/-- What a decoder may answer for a word: an instruction with that word, or that the word is unknown. -/
inductive Answers (w : Word) : Except DecodeError Instr → Prop where
  | instr {i : Instr} (h : encode i = w) : Answers w (.ok i)
  | unknown : Answers w (.error (.unknownOpcode w))

theorem Answers.ite {w : Word} {p : Prop} [Decidable p] {i : Instr} {rest : Except DecodeError Instr}
    (hi : p → encode i = w) (hrest : Answers w rest) : Answers w (if p then .ok i else rest) := by
  split
  · exact .instr (hi ‹p›)
  · exact hrest

theorem decodeFamily0_answers (w : Word) : Answers w (decodeFamily0 w) :=
  .ite Eq.symm (.ite Eq.symm .unknown)

theorem decodeN0_answers {w : Word} {i : Instr} (h : nField w = 0x0#4 → encode i = w) : Answers w (decodeN0 i w) :=
  .ite h .unknown

theorem decodeFamily8_answers {w : Word} (hop : opField w = 0x8#4) : Answers w (decodeFamily8 w) := by
  unfold decodeFamily8
  split
  case h_10 => exact .unknown
  all_goals exact .instr (encodeXYN_of_fields hop ‹_›)

theorem decodeFamilyE_answers {w : Word} (hop : opField w = 0xE#4) : Answers w (decodeFamilyE w) :=
  .ite (encodeXNN_of_fields hop) (.ite (encodeXNN_of_fields hop) .unknown)

theorem decodeFamilyF_answers {w : Word} (hop : opField w = 0xF#4) : Answers w (decodeFamilyF w) := by
  unfold decodeFamilyF
  iterate 9 refine .ite (encodeXNN_of_fields hop) ?_
  exact .unknown

theorem encode_drw_fields {w : Word} (hop : opField w = 0xD#4) :
    encode (.drw (xField w) (yField w) (rowsField w)) = w :=
  encodeXYN_of_fields hop (BitVec.ofNat_toNat 4 (nField w)).symm

/-- The decoder answers an instruction whose word is the one decoded, or `unknownOpcode` with that word. -/
theorem decodeWord_answers (w : Word) : Answers w (decodeWord w) := by
  unfold decodeWord
  obtain h | h | h | h | h | h | h | h | h | h | h | h | h | h | h | h := family_cases (opField w) <;> rw [h]
  · exact decodeFamily0_answers w
  · exact .instr (encodeNNN_of_fields h)
  · exact .instr (encodeNNN_of_fields h)
  · exact .instr (encodeXNN_of_op h)
  · exact .instr (encodeXNN_of_op h)
  · exact decodeN0_answers (encodeXYN_of_fields h)
  · exact .instr (encodeXNN_of_op h)
  · exact .instr (encodeXNN_of_op h)
  · exact decodeFamily8_answers h
  · exact decodeN0_answers (encodeXYN_of_fields h)
  · exact .instr (encodeNNN_of_fields h)
  · exact .instr (encodeNNN_of_fields h)
  · exact .instr (encodeXNN_of_op h)
  · exact .instr (encode_drw_fields h)
  · exact decodeFamilyE_answers h
  · exact decodeFamilyF_answers h

theorem decodeWord_cases (w : Word) :
    (∃ i, decodeWord w = .ok i ∧ encode i = w) ∨ decodeWord w = .error (.unknownOpcode w) :=
  match decodeWord w, decodeWord_answers w with
  | _, .instr h => .inl ⟨_, rfl, h⟩
  | _, .unknown => .inr rfl

/-! ### A word that no row selects -/

/-- The word of every instruction selects a row. -/
theorem encode_selects_row : ∀ i : Instr, Laws.Row.Statement i
  | .cls => Laws.Row.cls
  | .ret => Laws.Row.ret
  | .jp nnn => Laws.Row.jp nnn
  | .call nnn => Laws.Row.call nnn
  | .seImm x nn => Laws.Row.seImm x nn
  | .sneImm x nn => Laws.Row.sneImm x nn
  | .seReg x y => Laws.Row.seReg x y
  | .ldImm x nn => Laws.Row.ldImm x nn
  | .addImm x nn => Laws.Row.addImm x nn
  | .ldReg x y => Laws.Row.ldReg x y
  | .orReg x y => Laws.Row.orReg x y
  | .andReg x y => Laws.Row.andReg x y
  | .xorReg x y => Laws.Row.xorReg x y
  | .addReg x y => Laws.Row.addReg x y
  | .sub x y => Laws.Row.sub x y
  | .shr x y => Laws.Row.shr x y
  | .subn x y => Laws.Row.subn x y
  | .shl x y => Laws.Row.shl x y
  | .sneReg x y => Laws.Row.sneReg x y
  | .ldI nnn => Laws.Row.ldI nnn
  | .jpV0 nnn => Laws.Row.jpV0 nnn
  | .rnd x nn => Laws.Row.rnd x nn
  | .drw x y n => Laws.Row.drw x y n
  | .skp x => Laws.Row.skp x
  | .sknp x => Laws.Row.sknp x
  | .ldFromDt x => Laws.Row.ldFromDt x
  | .ldKey x => Laws.Row.ldKey x
  | .ldDt x => Laws.Row.ldDt x
  | .ldSt x => Laws.Row.ldSt x
  | .addI x => Laws.Row.addI x
  | .ldFont x => Laws.Row.ldFont x
  | .ldBcd x => Laws.Row.ldBcd x
  | .storeRegs x => Laws.Row.storeRegs x
  | .loadRegs x => Laws.Row.loadRegs x

/-- Settles O2: a row's mask keeps the fields that choose the instruction, so a selected word decodes as the row's value
does; a word that decodes is its instruction's word and selects a row, so an unselected one is unknown. -/
theorem decoderFollowsTheOpcodeTable : Obligations.DecoderFollowsTheOpcodeTable := by
  intro w
  constructor
  · intro r hr hs
    exact answeredMnemonic_eq_some.mp (answeredMnemonic_of_selects hr hs)
  · intro hnone
    obtain ⟨i, -, rfl⟩ | h := decodeWord_cases w
    · obtain ⟨r, hr, -, hs⟩ := encode_selects_row i
      exact absurd (hnone r hr) (ne_false_of_eq_true hs)
    · exact h

end Sys2Proof

/-! Control transfer by a jump or a skip (spec/41_flow.md R111, R114 to R117). Each instruction here answers the state it was
given with another PC, so one frame lemma serves all of them; and each is chosen by `op` alone, or by `op` and `n`. -/

namespace Sys2Proof

open Machine Safety

/-! ### Encodings from the fields that choose the instruction -/

/-- A pattern whose mask keeps `op` is encoded when the decoder needs `op` alone. -/
theorem encoded_of_op {value : Word} {mk : Word → Instr}
    (h : ∀ w, opField w = opField value → decodeWord w = .ok (mk w)) : Encoded 0xF000 value mk :=
  fun w hw => h w (fields_of_mask_op hw)

/-- A pattern whose mask keeps `op` and `n` is encoded when the decoder needs these two alone. -/
theorem encoded_of_opN {value : Word} {mk : Word → Instr}
    (h : ∀ w, opField w = opField value → nField w = nField value → decodeWord w = .ok (mk w)) :
    Encoded 0xF00F value mk := fun w hw =>
  have ⟨hop, hn⟩ := fields_of_mask_opN hw
  h w hop hn

theorem decodeWord_of_op_1 {w : Word} (hop : opField w = 0x1#4) : decodeWord w = .ok (.jp (nnnField w)) := by
  simp only [decodeWord, hop]

theorem decodeWord_of_op_3 {w : Word} (hop : opField w = 0x3#4) :
    decodeWord w = .ok (.seImm (xField w) (nnField w)) := by
  simp only [decodeWord, hop]

theorem decodeWord_of_op_4 {w : Word} (hop : opField w = 0x4#4) :
    decodeWord w = .ok (.sneImm (xField w) (nnField w)) := by
  simp only [decodeWord, hop]

theorem decodeWord_of_op_5 {w : Word} (hop : opField w = 0x5#4) :
    decodeWord w = decodeN0 (.seReg (xField w) (yField w)) w := by
  simp only [decodeWord, hop]

theorem decodeWord_of_op_9 {w : Word} (hop : opField w = 0x9#4) :
    decodeWord w = decodeN0 (.sneReg (xField w) (yField w)) w := by
  simp only [decodeWord, hop]

theorem decodeN0_of_zero {w : Word} (i : Instr) (hn : nField w = 0x0#4) : decodeN0 i w = .ok i := if_pos hn

theorem decodeN0_of_ne_zero {w : Word} (i : Instr) (hn : nField w ≠ 0x0#4) :
    decodeN0 i w = .error (.unknownOpcode w) := if_neg hn

/-- In families 5 and 9 a word with `n` not 0 is unknown (R76). -/
theorem decodeWord_unknown_of_n {w : Word} (hop : opField w = 0x5#4 ∨ opField w = 0x9#4) (hn : nField w ≠ 0x0#4) :
    decodeWord w = .error (.unknownOpcode w) := by
  obtain h5 | h9 := hop
  · rw [decodeWord_of_op_5 h5, decodeN0_of_ne_zero _ hn]
  · rw [decodeWord_of_op_9 h9, decodeN0_of_ne_zero _ hn]

/-! ### What a jump and a skip do -/

/-- A write of PC touches PC and nothing else. -/
theorem frame_setPc (s : State) (w : Word) : Frame (fun p => p = .pc) s (s.setPc w) := by
  refine ⟨fun p hp => ?_, rfl, rfl, rfl⟩
  cases p with
  | pc => exact absurd rfl hp
  | _ => rfl

/-- An instruction that ends in `skipIf` (R118) moves PC by two more exactly under its condition, and touches only PC. -/
theorem exec_skip_spec {i : Instr} {s : State} {c : Bool} {P : Prop} [Decidable P]
    (hexec : exec i s = .next (s.skipIf c)) (hc : c = true ↔ P) :
    ∃ t, exec i s = .next t ∧ t.pc = (if P then s.pc + 2 else s.pc) ∧ Frame (fun p => p = .pc) s t := by
  rw [State.skipIf_eq] at hexec
  exact ⟨_, hexec, if_congr hc rfl rfl, frame_setPc s _⟩

theorem byte_beq_iff_toNat_eq (a b : Byte) : (a == b) = true ↔ a.toNat = b.toNat :=
  beq_iff_eq.trans BitVec.toNat_inj.symm

theorem byte_bne_iff_toNat_ne (a b : Byte) : (a != b) = true ↔ a.toNat ≠ b.toNat :=
  bne_iff_ne.trans BitVec.toNat_ne_iff_ne.symm

/-! ### The obligations -/

/-- Settles O29 (R111): `exec` writes the zero-extended operand to PC. -/
theorem jumpGoesToItsOperand : Obligations.JumpGoesToItsOperand :=
  ⟨encoded_of_op fun _ => decodeWord_of_op_1, fun nnn s => ⟨_, rfl, zextAddr_toNat nnn, frame_setPc s _⟩⟩

/-- Settles O31 (R114, R115): both are skips on a comparison of V[x] with `nn`. -/
theorem immediateSkipsCompareAndSkip : Obligations.ImmediateSkipsCompareAndSkip := by
  refine ⟨encoded_of_op fun _ => decodeWord_of_op_3, encoded_of_op fun _ => decodeWord_of_op_4,
    fun x nn s => ⟨?_, ?_⟩⟩
  · exact exec_skip_spec rfl (byte_beq_iff_toNat_eq (s.reg x) nn)
  · exact exec_skip_spec rfl (byte_bne_iff_toNat_ne (s.reg x) nn)

/-- Settles O32 (R116, R117): both are skips on a comparison of V[x] with V[y]; their families decode by `n`, which must
be 0. -/
theorem registerSkipsCompareAndSkip : Obligations.RegisterSkipsCompareAndSkip := by
  refine ⟨encoded_of_opN fun w hop hn => ?_, encoded_of_opN fun w hop hn => ?_, fun w hfamily hn => ?_,
    fun x y s => ⟨?_, ?_⟩⟩
  · rw [decodeWord_of_op_5 hop, decodeN0_of_zero _ hn]
  · rw [decodeWord_of_op_9 hop, decodeN0_of_zero _ hn]
  · rw [← opField_toNat] at hfamily
    rw [← nField_toNat] at hn
    exact decodeWord_unknown_of_n (hfamily.imp BitVec.eq_of_toNat_eq BitVec.eq_of_toNat_eq)
      fun h0 => hn (congrArg BitVec.toNat h0)
  · exact exec_skip_spec rfl (byte_beq_iff_toNat_eq (s.reg x) (s.reg y))
  · exact exec_skip_spec rfl (byte_bne_iff_toNat_ne (s.reg x) (s.reg y))

end Sys2Proof

/-! Register load and addition (spec/42_alu.md R130, R131, R136). Each instruction here answers the state it was given with
other V registers, so one frame lemma serves a plain register write and a write of a result with its flag. -/

namespace Sys2Proof

open Machine Safety

/-! ### Decoding -/

theorem decodeWord_of_op_6 {w : Word} (hop : opField w = 0x6#4) :
    decodeWord w = .ok (.ldImm (xField w) (nnField w)) := by
  simp only [decodeWord, hop]

theorem decodeWord_of_op_7 {w : Word} (hop : opField w = 0x7#4) :
    decodeWord w = .ok (.addImm (xField w) (nnField w)) := by
  simp only [decodeWord, hop]

theorem decodeWord_of_op_8 {w : Word} (hop : opField w = 0x8#4) : decodeWord w = decodeFamily8 w := by
  simp only [decodeWord, hop]

theorem decodeFamily8_of_n_4 {w : Word} (hn : nField w = 0x4#4) :
    decodeFamily8 w = .ok (.addReg (xField w) (yField w)) := by
  simp only [decodeFamily8, hn]

/-! ### What a register write leaves unchanged -/

/-- New V registers touch only registers: it is enough that the untouched ones read as before. -/
theorem frame_of_reg_eq {touched : Part → Prop} (s : State) (v : Vector Byte 16)
    (hreg : ∀ z, ¬ touched (.v z) → { s with v := v }.reg z = s.reg z) : Frame touched s { s with v := v } := by
  refine ⟨fun p hp => ?_, rfl, rfl, rfl⟩
  cases p with
  | v z => exact congrArg BitVec.toNat (hreg z hp)
  | _ => rfl

theorem frame_setReg (s : State) (x : Reg) (b : Byte) : Frame (fun p => p = .v x) s (s.setReg x b) :=
  frame_of_reg_eq s _ fun z hz =>
    (s.reg_setReg x z b).trans (if_neg fun hzx => hz (congrArg Part.v hzx))

theorem frame_setResultAndFlag (s : State) (x : Reg) (r : Byte) (f : Bool) :
    Frame (fun p => p = .v x ∨ p = .v 15) s (s.setResultAndFlag x r f) :=
  frame_of_reg_eq s _ fun z hz => by
    have hzx : z ≠ x := fun h => hz (.inl (congrArg Part.v h))
    have hzf : z ≠ 15 := fun h => hz (.inr (congrArg Part.v h))
    exact (s.reg_setResultAndFlag x z r f).trans (by rw [if_neg hzf, if_neg hzx])

/-! ### A result with its flag -/

theorem reg_setResultAndFlag_result (s : State) {x : Reg} (r : Byte) (f : Bool) (hx : x ≠ 15) :
    (s.setResultAndFlag x r f).reg x = r := by
  rw [State.reg_setResultAndFlag, if_neg hx, if_pos rfl]

/-- VF holds the flag whatever `x` is, 15 included (R142). -/
theorem reg_setResultAndFlag_flag (s : State) (x : Reg) (r : Byte) (f : Bool) :
    (s.setResultAndFlag x r f).reg 15 = flagByte f := by
  rw [State.reg_setResultAndFlag, if_pos rfl]

/-- An instruction that ends in a result `n` and its flag `k` leaves the result in V[x] unless `x` is 15, the flag in VF
in every case, and touches nothing else. -/
theorem exec_resultAndFlag_spec {i : Instr} {s : State} {x : Reg} {r : Byte} {f : Bool} {n k : Nat}
    (hexec : exec i s = .next (s.setResultAndFlag x r f)) (hr : r.toNat = n) (hf : f.toNat = k) :
    ∃ t, exec i s = .next t ∧ (x ≠ 15 → (t.reg x).toNat = n) ∧ (t.reg 15).toNat = k ∧
      Frame (fun p => p = .v x ∨ p = .v 15) s t := by
  refine ⟨_, hexec, fun hx => ?_, ?_, frame_setResultAndFlag s x r f⟩
  · rw [reg_setResultAndFlag_result s r f hx, hr]
  · rw [reg_setResultAndFlag_flag, flagByte_toNat, hf]

/-- The carry as a number (R136). -/
theorem carry_toNat (p q : Byte) : (carry p q).toNat = if p.toNat + q.toNat > 255 then 1 else 0 :=
  Bool.cond_decide _ 1 0

/-! ### The obligations -/

/-- Settles O39 (R136): the sum and its carry, both of the old values, by one write of a result with its flag. -/
theorem addSetsCarryLast : Obligations.AddSetsCarryLast := by
  refine ⟨encoded_of_opN fun w hop hn => ?_, fun x y s => ?_⟩
  · rw [decodeWord_of_op_8 hop, decodeFamily8_of_n_4 hn]
  · exact exec_resultAndFlag_spec rfl (BitVec.toNat_add _ _) (carry_toNat (s.reg x) (s.reg y))

/-- Settles O37 (R130, R131): both are a single write of V[x]. -/
theorem immediateLoadAndAddWrap : Obligations.ImmediateLoadAndAddWrap := by
  refine ⟨encoded_of_op fun _ => decodeWord_of_op_6, encoded_of_op fun _ => decodeWord_of_op_7,
    fun x nn s => ⟨⟨_, rfl, ?_, frame_setReg s x nn⟩, ⟨_, rfl, ?_, frame_setReg s x (s.reg x + nn)⟩⟩⟩
  · rw [State.reg_setReg_self]
  · rw [State.reg_setReg_self, BitVec.toNat_add]

end Sys2Proof

/-! The index register and the decimal store (spec/43_index_memory.md R150, R153). Annn answers the state it was given with
another I; Fx33 answers it with three bytes written one after the other at distinct addresses, so its effect and its frame
come from those of a single store. -/

namespace Sys2Proof

open Machine Safety

/-! ### Decoding -/

/-- A pattern whose mask keeps `op` and `nn` is encoded when the decoder needs these two alone. -/
theorem encoded_of_opNn {value : Word} {mk : Word → Instr}
    (h : ∀ w, opField w = opField value → nnField w = nnField value → decodeWord w = .ok (mk w)) :
    Encoded 0xF0FF value mk := fun w hw =>
  have ⟨hop, hnn⟩ := fields_of_mask_opNn hw
  h w hop hnn

theorem decodeWord_of_op_A {w : Word} (hop : opField w = 0xA#4) : decodeWord w = .ok (.ldI (nnnField w)) := by
  simp only [decodeWord, hop]

theorem decodeWord_of_op_F {w : Word} (hop : opField w = 0xF#4) : decodeWord w = decodeFamilyF w := by
  rw [decodeWord, hop]
  rfl

theorem decodeFamilyF_of_nn_33 {w : Word} (hnn : nnField w = 0x33#8) : decodeFamilyF w = .ok (.ldBcd (xField w)) := by
  rw [decodeFamilyF, hnn]
  rfl

/-! ### What a write of I and a store leave unchanged -/

/-- A write of I touches I and nothing else. -/
theorem frame_setI (s : State) (w : Word) : Frame (fun p => p = .i) s (s.setI w) := by
  refine ⟨fun p hp => ?_, rfl, rfl, rfl⟩
  cases p with
  | i => exact absurd rfl hp
  | _ => rfl

/-- A store touches only the byte it writes: it is enough that this one may be touched. -/
theorem frame_writeByte {touched : Part → Prop} (s : State) {a : Nat} (b : Byte) (ha : touched (.mem a)) :
    Frame touched s (s.writeByte a b) := by
  refine ⟨fun p hp => ?_, rfl, rfl, rfl⟩
  cases p with
  | mem a' =>
    have hne : a' ≠ a := fun h => hp (h ▸ ha)
    exact congrArg BitVec.toNat ((s.readByte_writeByte a a' b).trans (if_neg hne))
  | _ => rfl

theorem Safety.Frame.trans {touched : Part → Prop} {s t u : State} (hst : Frame touched s t) (htu : Frame touched t u) :
    Frame touched s u := by
  obtain ⟨hview, hbase, hinputs, hdraws⟩ := hst
  obtain ⟨hview', hbase', hinputs', hdraws'⟩ := htu
  exact ⟨fun p hp => (hview' p hp).trans (hview p hp), hbase'.trans hbase, hinputs'.trans hinputs,
    hdraws'.trans hdraws⟩

/-! ### Reads after stores at effective addresses -/

/-- The sixteen effective addresses an instruction can use are distinct, also where they wrap (R56). -/
theorem ea_ne_ea (s : State) {j k : Nat} (hj : j < 16) (hk : k < 16) (hjk : j ≠ k) : s.ea j ≠ s.ea k := by
  simp only [State.ea, Config.memSize]
  omega

theorem readByte_writeByte_self (s : State) (a : Nat) (b : Byte) : (s.writeByte a b).readByte a = b := by
  rw [State.readByte_writeByte, if_pos rfl]

theorem readByte_writeByte_of_ne (s : State) {a a' : Nat} (b : Byte) (h : a' ≠ a) :
    (s.writeByte a b).readByte a' = s.readByte a' := by
  rw [State.readByte_writeByte, if_neg h]

/-! ### Decimal digits -/

theorem hundreds_toNat (b : Byte) : (hundreds b).toNat = b.toNat / 100 :=
  Nat.mod_eq_of_lt (lt_of_le_of_lt (Nat.div_le_self _ _) b.isLt)

theorem tens_toNat (b : Byte) : (tens b).toNat = b.toNat / 10 % 10 :=
  Nat.mod_eq_of_lt ((Nat.mod_lt _ (by decide)).trans (by decide))

theorem units_toNat (b : Byte) : (units b).toNat = b.toNat % 10 :=
  Nat.mod_eq_of_lt ((Nat.mod_lt _ (by decide)).trans (by decide))

/-! ### The obligations -/

/-- Settles O46 (R153): each digit is read past the later stores, which are at other addresses; the frame is that of three
stores in a row. -/
theorem decimalDigitsAreStored : Obligations.DecimalDigitsAreStored := by
  refine ⟨encoded_of_opNn fun w hop hnn => ?_, fun x s => ⟨_, rfl, ?_, ?_, ?_, ?_⟩⟩
  · rw [decodeWord_of_op_F hop, decodeFamilyF_of_nn_33 hnn]
  · have h01 : s.ea 0 ≠ s.ea 1 := ea_ne_ea s (by decide) (by decide) (by decide)
    have h02 : s.ea 0 ≠ s.ea 2 := ea_ne_ea s (by decide) (by decide) (by decide)
    rw [readByte_writeByte_of_ne _ _ h02, readByte_writeByte_of_ne _ _ h01, readByte_writeByte_self, hundreds_toNat]
  · have h12 : s.ea 1 ≠ s.ea 2 := ea_ne_ea s (by decide) (by decide) (by decide)
    rw [readByte_writeByte_of_ne _ _ h12, readByte_writeByte_self, tens_toNat]
  · rw [readByte_writeByte_self, units_toNat]
  · exact ((frame_writeByte s _ ⟨0, by decide, rfl⟩).trans (frame_writeByte _ _ ⟨1, by decide, rfl⟩)).trans
      (frame_writeByte _ _ ⟨2, by decide, rfl⟩)

/-- Settles O43 (R150): `exec` writes the zero-extended operand to I. -/
theorem loadIndexZeroExtends : Obligations.LoadIndexZeroExtends :=
  ⟨encoded_of_op fun _ => decodeWord_of_op_A, fun nnn s => ⟨_, rfl, zextAddr_toNat nnn, frame_setI s _⟩⟩

end Sys2Proof

/-! The clear of the display (spec/44_display.md R171): 00E0 answers the state it was given with the blank framebuffer. -/

namespace Sys2Proof

open Machine Safety

/-- A new framebuffer touches pixels and nothing else, whichever pixels it holds. -/
theorem frame_withFb (s : State) (fb : Framebuffer) : Frame (fun p => ∃ r c, p = .pixel r c) s { s with fb := fb } := by
  refine ⟨fun p hp => ?_, rfl, rfl, rfl⟩
  cases p with
  | pixel r c => exact absurd ⟨r, c, rfl⟩ hp
  | _ => rfl

/-- Settles O51 (R171): `exec` puts the blank framebuffer in place of the old one. -/
theorem clearTurnsEveryPixelOff : Obligations.ClearTurnsEveryPixelOff :=
  ⟨rfl, fun s => ⟨_, rfl, Framebuffer.pixel_blank, frame_withFb s Framebuffer.blank⟩⟩

end Sys2Proof

/-! The decoder and the encoder as inverses, and the unmatched words family by family (spec/30_encoding.md R75, R76).
Decoding is first said once per family, in terms of the fields that the family reads. -/

namespace Sys2Proof

open Machine Safety

/-! ### The other families -/

theorem decodeWord_of_op_0 {w : Word} (hop : opField w = 0x0#4) : decodeWord w = decodeFamily0 w := by
  simp only [decodeWord, hop]

theorem decodeWord_of_op_2 {w : Word} (hop : opField w = 0x2#4) : decodeWord w = .ok (.call (nnnField w)) := by
  simp only [decodeWord, hop]

theorem decodeWord_of_op_B {w : Word} (hop : opField w = 0xB#4) : decodeWord w = .ok (.jpV0 (nnnField w)) := by
  simp only [decodeWord, hop]

theorem decodeWord_of_op_C {w : Word} (hop : opField w = 0xC#4) :
    decodeWord w = .ok (.rnd (xField w) (nnField w)) := by
  simp only [decodeWord, hop]

theorem decodeWord_of_op_D {w : Word} (hop : opField w = 0xD#4) :
    decodeWord w = .ok (.drw (xField w) (yField w) (rowsField w)) := by
  simp only [decodeWord, hop]

theorem decodeWord_of_op_E {w : Word} (hop : opField w = 0xE#4) : decodeWord w = decodeFamilyE w := by
  simp only [decodeWord, hop]

/-! ### Decoding an encoded word -/

@[simp] theorem rowsField_encodeXYN (op : BitVec 4) (x y : Reg) (n : BitVec 4) :
    rowsField (encodeXYN op x y n) = ⟨n.toNat, n.isLt⟩ := by
  simp only [rowsField, nField_encodeXYN]

/-- Every operand of an encoded word is read back from its own field, and the fields that choose the instruction choose
it. -/
theorem decodeWord_encode (i : Instr) : decodeWord (encode i) = .ok i := by
  cases i with
  | cls | ret => rfl
  | jp => simp [encode, decodeWord_of_op_1]
  | call => simp [encode, decodeWord_of_op_2]
  | seImm => simp [encode, decodeWord_of_op_3]
  | sneImm => simp [encode, decodeWord_of_op_4]
  | seReg => simp [encode, decodeWord_of_op_5, decodeN0_of_zero]
  | ldImm => simp [encode, decodeWord_of_op_6]
  | addImm => simp [encode, decodeWord_of_op_7]
  | ldReg | orReg | andReg | xorReg | addReg | sub | shr | subn | shl =>
    simp [encode, decodeWord_of_op_8, decodeFamily8]
  | sneReg => simp [encode, decodeWord_of_op_9, decodeN0_of_zero]
  | ldI => simp [encode, decodeWord_of_op_A]
  | jpV0 => simp [encode, decodeWord_of_op_B]
  | rnd => simp [encode, decodeWord_of_op_C]
  | drw => simp [encode, decodeWord_of_op_D]
  | skp | sknp => simp [encode, decodeWord_of_op_E, decodeFamilyE]
  | ldFromDt | ldKey | ldDt | ldSt | addI | ldFont | ldBcd | storeRegs | loadRegs =>
    simp [encode, decodeWord_of_op_F, decodeFamilyF]

/-- Settles O3: the word's two bytes make the word again, which decodes to the instruction. -/
theorem decodeOfEncodeIsTheInstruction : Obligations.DecodeOfEncodeIsTheInstruction := fun i =>
  ⟨decodeWord_encode i, by simp [bytesOfWord, decode, decodeWord_encode, Except.map]⟩

/-- Settles O4: whatever the decoder answers for a word is an instruction with that word. -/
theorem encodeOfDecodeIsTheWord : Obligations.EncodeOfDecodeIsTheWord := by
  intro w i hi
  obtain ⟨j, hj, hw⟩ | hunknown := decodeWord_cases w
  · obtain rfl : i = j := Except.ok.inj (hi.symm.trans hj)
    exact hw
  · exact absurd (hi.symm.trans hunknown) nofun

/-! ### The unmatched words -/

theorem decodeFamily0_unknown_iff (w : Word) :
    decodeFamily0 w = .error (.unknownOpcode w) ↔ w.toNat ≠ 0x00E0 ∧ w.toNat ≠ 0x00EE := by
  have hE0 : w = 0x00E0#16 ↔ w.toNat = 0x00E0 := BitVec.toNat_inj.symm
  have hEE : w = 0x00EE#16 ↔ w.toNat = 0x00EE := BitVec.toNat_inj.symm
  simp only [decodeFamily0, hE0, hEE]
  split_ifs <;> simp [*]

theorem decodeN0_unknown_iff (i : Instr) (w : Word) :
    decodeN0 i w = .error (.unknownOpcode w) ↔ w.toNat % 16 ≠ 0 := by
  have h0 : nField w = 0x0#4 ↔ w.toNat % 16 = 0 := by rw [← nField_toNat]; exact BitVec.toNat_inj.symm
  simp only [decodeN0, h0]
  split_ifs <;> simp [*]

theorem decodeFamily8_unknown_iff (w : Word) :
    decodeFamily8 w = .error (.unknownOpcode w) ↔ w.toNat % 16 ∈ [8, 9, 0xA, 0xB, 0xC, 0xD, 0xF] := by
  rw [← nField_toNat, decodeFamily8]
  obtain h | h | h | h | h | h | h | h | h | h | h | h | h | h | h | h := family_cases (nField w) <;> simp [h]

theorem decodeFamilyE_unknown_iff (w : Word) :
    decodeFamilyE w = .error (.unknownOpcode w) ↔ w.toNat % 256 ∉ [0x9E, 0xA1] := by
  rw [← nnField_toNat, decodeFamilyE]
  simp only [← BitVec.toNat_inj]
  split_ifs <;> simp_all

theorem decodeFamilyF_unknown_iff (w : Word) :
    decodeFamilyF w = .error (.unknownOpcode w) ↔
      w.toNat % 256 ∉ [0x07, 0x0A, 0x15, 0x18, 0x1E, 0x29, 0x33, 0x55, 0x65] := by
  rw [← nnField_toNat, decodeFamilyF]
  simp only [← BitVec.toNat_inj]
  split_ifs <;> simp_all

/-- Settles O6 (R76, decision D13): each family has its own law, and the families of one instruction leave no word
out. -/
theorem unknownWordsAreExactlyTheListed : Obligations.UnknownWordsAreExactlyTheListed := by
  intro w
  rw [← opField_toNat]
  obtain h | h | h | h | h | h | h | h | h | h | h | h | h | h | h | h := family_cases (opField w)
  · simp [h, decodeWord_of_op_0, decodeFamily0_unknown_iff]
  · simp [h, decodeWord_of_op_1]
  · simp [h, decodeWord_of_op_2]
  · simp [h, decodeWord_of_op_3]
  · simp [h, decodeWord_of_op_4]
  · simp [h, decodeWord_of_op_5, decodeN0_unknown_iff]
  · simp [h, decodeWord_of_op_6]
  · simp [h, decodeWord_of_op_7]
  · simp [h, decodeWord_of_op_8, decodeFamily8_unknown_iff]
  · simp [h, decodeWord_of_op_9, decodeN0_unknown_iff]
  · simp [h, decodeWord_of_op_A]
  · simp [h, decodeWord_of_op_B]
  · simp [h, decodeWord_of_op_C]
  · simp [h, decodeWord_of_op_D]
  · simp [h, decodeWord_of_op_E, decodeFamilyE_unknown_iff]
  · simp [h, decodeWord_of_op_F, decodeFamilyF_unknown_iff]

/-- Settles O5: the decoder evaluated on each word. -/
theorem sampleWordsDecodeAsWritten : Obligations.SampleWordsDecodeAsWritten := by
  refine ⟨?_, ?_, ?_, ?_, ?_, ?_, ?_, ?_, ?_⟩ <;> rfl

end Sys2Proof

/-! What the execute phase can make of a state, said once for all instructions (spec/40_step_cycle.md R95), and what the
end of a `Step` leaves as it is. The two invariants of a step follow: the canonical memory, and the bounds of PC and of
the live stack entries (spec/10_state.md R24, spec/41_flow.md R110). -/

namespace Sys2Proof

open Machine Safety

/-! ### The answers of the instructions that branch on the state -/

theorem exec_ret_of_pos {s : State} (h : 0 < s.sp.val) : exec .ret s = .next (s.popPc h) :=
  congrArg Host.Outcome.next (dif_pos h)

theorem exec_ret_of_zero {s : State} (h : s.sp.val = 0) : exec .ret s = .next (s.raise .stackUnderflow) :=
  congrArg Host.Outcome.next (dif_neg (by omega))

theorem exec_call_of_lt (nnn : Addr) {s : State} (h : s.sp.val < 16) :
    exec (.call nnn) s = .next ((s.pushPc h).setPc (zextAddr nnn)) :=
  congrArg Host.Outcome.next (dif_pos h)

theorem exec_call_of_full (nnn : Addr) {s : State} (h : s.sp.val = 16) :
    exec (.call nnn) s = .next (s.raise .stackOverflow) :=
  congrArg Host.Outcome.next (dif_neg (by omega))

theorem exec_ldKey_of_none (x : Reg) {s : State} (h : lowestKey s.keys = none) :
    exec (.ldKey x) s = .next (s.setPc (s.pc - 2)) := by
  simp only [exec, execLdKey, h]

theorem exec_ldKey_of_some (x : Reg) {s : State} {k : Nat} (h : lowestKey s.keys = some k) :
    exec (.ldKey x) s = .next (s.setReg x (BitVec.ofNat 8 k)) := by
  simp only [exec, execLdKey, h]

/-! ### The kinds of effect -/

/-- What the execute phase can make of a state: other values in the registers that steer nothing, another memory that is
canonical if the old one was, another PC, a pop, a push, or a latched condition. -/
inductive Effect (s : State) : State → Prop where
  | data (v : Vector Byte 16) (i : Word) (dt st : Byte) (fb : Framebuffer) :
    Effect s { s with v := v, i := i, dt := dt, st := st, fb := fb }
  | store (m : List Host.Cell) (hm : Memory.wf s.fontBase s.mem = true → Memory.wf s.fontBase m = true) :
    Effect s { s with mem := m }
  | jump (w : Word) (hw : w.toNat ≤ 0x10FE) : Effect s (s.setPc w)
  | skip (c : Bool) : Effect s (s.skipIf c)
  | wait : Effect s (s.setPc (s.pc - 2))
  | pop (h : 0 < s.sp.val) : Effect s (s.popPc h)
  | push (h : s.sp.val < 16) (w : Word) (hw : w.toNat ≤ 0x10FE) : Effect s ((s.pushPc h).setPc w)
  | fatal (f : Fault) : Effect s (s.raise f)

/-- Bnnn adds two zero-extended numbers, so its sum does not wrap (R113, decision D37). -/
theorem jpV0_target_toNat (nnn : Addr) (b : Byte) : (zextAddr nnn + zextByte b).toNat = nnn.toNat + b.toNat := by
  have := nnn.isLt
  have := b.isLt
  rw [BitVec.toNat_add, zextAddr_toNat, zextByte_toNat, Nat.mod_eq_of_lt (by omega)]

theorem zextAddr_le (nnn : Addr) : (zextAddr nnn).toNat ≤ 0x10FE := by
  have := nnn.isLt
  rw [zextAddr_toNat]
  omega

theorem jpV0_target_le (nnn : Addr) (b : Byte) : (zextAddr nnn + zextByte b).toNat ≤ 0x10FE := by
  have := nnn.isLt
  have := b.isLt
  rw [jpV0_target_toNat]
  omega

theorem effect_storeBlock (s : State) (n : Nat) : Effect s (s.storeBlock n) := by
  have hwf := s.wf_storeBlock n
  rw [State.storeBlock_eq] at hwf ⊢
  exact .store _ hwf

theorem effect_loadBlock (s : State) (n : Nat) : Effect s (s.loadBlock n) := by
  rw [State.loadBlock_eq]
  exact .data _ s.i s.dt s.st s.fb

/-- Every instruction answers a next state, by one of the kinds of effect. -/
theorem exec_effect (i : Instr) (s : State) : ∃ t, exec i s = .next t ∧ Effect s t := by
  cases i with
  | ret =>
    by_cases h : 0 < s.sp.val
    · exact ⟨_, exec_ret_of_pos h, .pop h⟩
    · exact ⟨_, exec_ret_of_zero (by omega), .fatal _⟩
  | call nnn =>
    by_cases h : s.sp.val < 16
    · exact ⟨_, exec_call_of_lt nnn h, .push h _ (zextAddr_le nnn)⟩
    · exact ⟨_, exec_call_of_full nnn (by omega), .fatal _⟩
  | ldKey x =>
    cases h : lowestKey s.keys with
    | none => exact ⟨_, exec_ldKey_of_none x h, .wait⟩
    | some k => exact ⟨_, exec_ldKey_of_some x h, .data _ s.i s.dt s.st s.fb⟩
  | jp nnn => exact ⟨_, rfl, .jump _ (zextAddr_le nnn)⟩
  | jpV0 nnn => exact ⟨_, rfl, .jump _ (jpV0_target_le nnn (s.reg 0))⟩
  | seImm | sneImm | seReg | sneReg | skp | sknp => exact ⟨_, rfl, .skip _⟩
  | ldBcd =>
    exact ⟨_, rfl, .store _ fun h =>
      State.wf_writeByte _ _ (s.ea_lt 2) (State.wf_writeByte _ _ (s.ea_lt 1) (s.wf_writeByte _ (s.ea_lt 0) h))⟩
  | storeRegs x => exact ⟨_, rfl, effect_storeBlock s (x.val + 1)⟩
  | loadRegs x => exact ⟨_, rfl, effect_loadBlock s (x.val + 1)⟩
  | ldI | addI | ldFont => exact ⟨_, rfl, .data s.v _ s.dt s.st s.fb⟩
  | ldDt => exact ⟨_, rfl, .data s.v s.i _ s.st s.fb⟩
  | ldSt => exact ⟨_, rfl, .data s.v s.i s.dt _ s.fb⟩
  | cls => exact ⟨_, rfl, .data s.v s.i s.dt s.st _⟩
  | drw => exact ⟨_, rfl, .data _ s.i s.dt s.st _⟩
  | ldImm | addImm | ldReg | orReg | andReg | xorReg | addReg | sub | shr | subn | shl | rnd | ldFromDt =>
    exact ⟨_, rfl, .data _ s.i s.dt s.st s.fb⟩

/-- What is known of an instruction's answer holds of the state it answers. -/
theorem of_exec {P : State → Prop} {i : Instr} {s t : State} (h : exec i s = .next t)
    (hP : ∃ u, exec i s = .next u ∧ P u) : P t := by
  obtain ⟨u, hu, hPu⟩ := hP
  obtain rfl : t = u := Host.Outcome.next.inj (h.symm.trans hu)
  exact hPu

theorem effect_of_exec {i : Instr} {s t : State} (h : exec i s = .next t) : Effect s t := of_exec h (exec_effect i s)

/-- Settles O8. -/
theorem everyInstructionAnswersANextState : Obligations.EveryInstructionAnswersANextState := fun i s =>
  have ⟨t, ht, _⟩ := exec_effect i s
  ⟨t, ht⟩

/-! ### The end of a `Step` -/

/-- The end of an instruction changes the timers, the report and what is left of the inputs, and nothing else. -/
theorem endExec_eq (u : State) :
    u.endExec =
      { u with dt := u.endExec.dt, st := u.endExec.st, report := u.endExec.report, inputs := u.inputs.tail,
               draws := u.draws + 1 } := by
  unfold State.endExec
  split <;> rfl

@[simp] theorem endExec_fault (u : State) : u.endExec.fault = u.fault := by rw [endExec_eq]
@[simp] theorem endExec_pc (u : State) : u.endExec.pc = u.pc := by rw [endExec_eq]
@[simp] theorem endExec_v (u : State) : u.endExec.v = u.v := by rw [endExec_eq]
@[simp] theorem endExec_keys (u : State) : u.endExec.keys = u.keys := by rw [endExec_eq]
@[simp] theorem endExec_fontBase (u : State) : u.endExec.fontBase = u.fontBase := by rw [endExec_eq]
@[simp] theorem endExec_inputs (u : State) : u.endExec.inputs = u.inputs.tail := by rw [endExec_eq]
@[simp] theorem endExec_draws (u : State) : u.endExec.draws = u.draws + 1 := by rw [endExec_eq]
@[simp] theorem endExec_reg (u : State) (x : Reg) : u.endExec.reg x = u.reg x := by simp [State.reg]

/-! ### The canonical memory -/

theorem Effect.keeps_memoryCanonical {s t : State} (h : Effect s t) (hs : MemoryCanonical s) : MemoryCanonical t := by
  cases h with
  | store m hm => exact hm hs
  | skip c => cases c <;> exact hs
  | _ => exact hs

theorem memoryCanonical_endExec {u : State} (h : MemoryCanonical u) : MemoryCanonical u.endExec := by
  rw [endExec_eq]
  exact h

/-- Settles O16: every effect keeps the canonical form, and all else a step does leaves memory alone. -/
theorem stepKeepsMemoryCanonical : Obligations.StepKeepsMemoryCanonical := by
  intro s t hs hstep
  obtain ⟨-, ⟨-, rfl⟩ | ⟨-, -, rfl⟩ | ⟨-, i, u, -, hexec, rfl⟩⟩ := step_next_cases hstep
  · exact hs
  · exact hs
  · exact memoryCanonical_endExec ((effect_of_exec hexec).keeps_memoryCanonical hs)

/-! ### The bounds of PC and the stack -/

/-- Every live stack entry is the address after a call (spec/41_flow.md R110). -/
def StackInBounds (s : State) : Prop :=
  ∀ k : Fin 16, k.val < s.sp.val → 2 ≤ (s.stackAt k).toNat ∧ (s.stackAt k).toNat ≤ 0x1000

theorem stackInBounds_popPc {s : State} (h : 0 < s.sp.val) (hstack : StackInBounds s) : StackInBounds (s.popPc h) :=
  fun k hk => hstack k (by simp only [State.popPc_sp] at hk; omega)

theorem stackInBounds_pushPc {s : State} (h : s.sp.val < 16) (hlo : 2 ≤ s.pc.toNat) (hhi : s.pc.toNat ≤ 0x1000)
    (hstack : StackInBounds s) : StackInBounds (s.pushPc h) := by
  intro k hk
  simp only [State.pushPc_sp] at hk
  rw [State.stackAt_pushPc]
  split_ifs with hksp
  · exact ⟨hlo, hhi⟩
  · exact hstack k (by omega)

/-- The popped PC is the top live entry. -/
theorem popPc_pc_le {s : State} (h : 0 < s.sp.val) (hstack : StackInBounds s) : (s.popPc h).pc.toNat ≤ 0x1000 := by
  have hsp := s.sp.isLt
  exact (hstack ⟨s.sp.val - 1, by omega⟩ (by simp only; omega)).2

/-- From an advanced PC between 0x002 and 0x1000 every effect stays in bounds. -/
theorem Effect.controlFlowInBounds {s t : State} (h : Effect s t) (hlo : 2 ≤ s.pc.toNat) (hhi : s.pc.toNat ≤ 0x1000)
    (hstack : StackInBounds s) : ControlFlowInBounds t := by
  intro hf
  cases h with
  | data | store => exact ⟨by simp only; omega, hstack⟩
  | jump w hw => exact ⟨hw, hstack⟩
  | skip c =>
    rw [State.skipIf_eq]
    refine ⟨?_, hstack⟩
    cases c
    · exact hhi.trans (by decide)
    · change (s.pc + 2).toNat ≤ 0x10FE
      bv_omega
  | wait => exact ⟨by simp only [State.setPc_pc]; bv_omega, hstack⟩
  | pop h => exact ⟨(popPc_pc_le h hstack).trans (by decide), stackInBounds_popPc h hstack⟩
  | push h w hw => exact ⟨hw, stackInBounds_pushPc h hlo hhi hstack⟩
  | fatal f => cases hf

theorem controlFlowInBounds_endExec {u : State} (h : ControlFlowInBounds u) : ControlFlowInBounds u.endExec := by
  rw [endExec_eq]
  exact h

/-- A fetch in bounds leaves the advanced PC between 0x002 and 0x1000. -/
theorem advanced_pc_toNat {s : State} (hb : s.pc.toNat ≤ 0xFFE) : (s.pc + 2).toNat = s.pc.toNat + 2 := by
  bv_omega

/-- Settles O17: a fetch in bounds advances PC to 0x002 to 0x1000, from where every effect stays in bounds; out of
bounds the core is halted. -/
theorem stepKeepsControlFlowInBounds : Obligations.StepKeepsControlFlowInBounds := by
  intro s t hs hstep
  obtain ⟨hf, ⟨-, rfl⟩ | ⟨hb, -, rfl⟩ | ⟨hb, i, u, -, hexec, rfl⟩⟩ := step_next_cases hstep
  · exact nofun
  all_goals
    obtain ⟨-, hstack⟩ := hs hf
    have hin := s.fetchInBounds_iff.mp hb
    have hpc := advanced_pc_toNat hin
  · exact fun _ => ⟨by change (s.pc + 2).toNat ≤ _; omega, hstack⟩
  · exact controlFlowInBounds_endExec ((effect_of_exec hexec).controlFlowInBounds
      (by change 2 ≤ (s.pc + 2).toNat; omega) (by change (s.pc + 2).toNat ≤ _; omega) hstack)

end Sys2Proof

/-! The indexed jump, the key skips, and calls and returns (spec/41_flow.md R110, R112, R113, R119,
spec/45_keys_timers_random.md R185, R186, R192). -/

namespace Sys2Proof

open Machine Safety

/-! ### Encodings -/

theorem encoded_skp : Encoded 0xF0FF 0xE09E fun w => .skp (xField w) :=
  encoded_of_opNn fun _ hop hnn => (decodeWord_of_op_E hop).trans (if_pos hnn)

theorem encoded_sknp : Encoded 0xF0FF 0xE0A1 fun w => .sknp (xField w) :=
  encoded_of_opNn fun w hop hnn => by
    rw [decodeWord_of_op_E hop, decodeFamilyE, hnn]
    rfl

/-! ### Frames -/

theorem Safety.Frame.mono {touched touched' : Part → Prop} {s t : State} (h : Frame touched s t)
    (hsub : ∀ p, touched p → touched' p) : Frame touched' s t := by
  obtain ⟨hview, hrest⟩ := h
  exact ⟨fun p hp => hview p fun hp' => hp (hsub p hp'), hrest⟩

/-- A latched condition touches PC and FAULT and nothing else (R206). -/
theorem frame_raise (s : State) (f : Fault) : Frame (fun p => p = .pc ∨ p = .fault) s (s.raise f) := by
  refine ⟨fun p hp => ?_, rfl, rfl, rfl⟩
  cases p with
  | pc => exact absurd (.inl rfl) hp
  | fault => exact absurd (.inr rfl) hp
  | _ => rfl

/-- A pop touches PC and SP and nothing else: the entry keeps its content. -/
theorem frame_popPc {s : State} (h : 0 < s.sp.val) : Frame (fun p => p = .pc ∨ p = .sp) s (s.popPc h) := by
  refine ⟨fun p hp => ?_, rfl, rfl, rfl⟩
  cases p with
  | pc => exact absurd (.inl rfl) hp
  | sp => exact absurd (.inr rfl) hp
  | _ => rfl

/-- A push touches SP and the entry at SP and nothing else. -/
theorem frame_pushPc {s : State} (h : s.sp.val < 16) :
    Frame (fun p => p = .sp ∨ p = .stack ⟨s.sp.val, h⟩) s (s.pushPc h) := by
  refine ⟨fun p hp => ?_, rfl, rfl, rfl⟩
  cases p with
  | sp => exact absurd (.inl rfl) hp
  | stack k =>
    have hk : k.val ≠ s.sp.val := fun hk => hp (.inr (congrArg Part.stack (Fin.ext hk)))
    exact congrArg BitVec.toNat ((s.stackAt_pushPc h k).trans (if_neg hk))
  | _ => rfl

/-- A call touches PC, SP and the entry at SP and nothing else. -/
theorem frame_call {s : State} (h : s.sp.val < 16) (w : Word) :
    Frame (fun p => p = .pc ∨ p = .sp ∨ p = .stack ⟨s.sp.val, h⟩) s ((s.pushPc h).setPc w) :=
  ((frame_pushPc h).mono fun _ => .inr).trans ((frame_setPc _ w).mono fun _ => .inl)

/-! ### Jump, skips -/

/-- Settles O30 (R113, decision D37): the sum of two zero-extended operands does not wrap. -/
theorem indexedJumpAddsV0 : Obligations.IndexedJumpAddsV0 :=
  ⟨encoded_of_op fun _ => decodeWord_of_op_B,
    fun nnn s => ⟨_, rfl, jpV0_target_toNat nnn (s.reg 0), frame_setPc s _⟩⟩

/-- The key that a skip tests is the one of the low nibble (R192). -/
theorem keyDown_lowNibble (s : State) (b : Byte) : s.keyDown (lowNibble b) = s.keys.getLsbD (b.toNat % 16) := by
  rw [State.keyDown, lowNibble_val]

/-- Settles O33 (R185, R186, decision D24): both are skips on the key of the low nibble. -/
theorem keySkipsTestTheLowNibbleKey : Obligations.KeySkipsTestTheLowNibbleKey := by
  refine ⟨encoded_skp, encoded_sknp, fun x s => ⟨exec_skip_spec rfl ?_, exec_skip_spec rfl ?_⟩⟩
  · rw [keyDown_lowNibble]
  · rw [keyDown_lowNibble, Bool.not_eq_true']

/-! ### Calls and returns -/

theorem popPc_pc (s : State) (h : 0 < s.sp.val) {k : Fin 16} (hk : s.sp.val = k.val + 1) :
    (s.popPc h).pc = s.stackAt k := by
  have hidx : s.sp.val - 1 = k.val := by omega
  simp only [State.popPc_pc, State.stackAt, hidx]

theorem stackAt_pushPc_self (s : State) (h : s.sp.val < 16) {k : Fin 16} (hk : s.sp.val = k.val) :
    (s.pushPc h).stackAt k = s.pc := by
  rw [State.stackAt_pushPc, if_pos hk.symm]

/-- Settles O34 (R110, decisions D6, D36): with SP above 0 a pop, with SP = 0 the latch. -/
theorem returnPopsTheTopEntry : Obligations.ReturnPopsTheTopEntry := by
  refine ⟨rfl, fun s => ⟨fun k hk => ?_, fun h0 => ?_⟩⟩
  · have hpos : 0 < s.sp.val := by omega
    exact ⟨_, exec_ret_of_pos hpos, popPc_pc s hpos hk, Nat.sub_eq_of_eq_add hk, frame_popPc hpos⟩
  · exact ⟨_, exec_ret_of_zero h0, rfl, frame_raise s _⟩

/-- Settles O35 (R112, decision D6): with SP below 16 a push and a jump, with SP = 16 the latch. -/
theorem callPushesTheReturnAddress : Obligations.CallPushesTheReturnAddress := by
  refine ⟨encoded_of_op fun _ => decodeWord_of_op_2, fun nnn s => ⟨fun k hk => ?_, fun hfull => ?_⟩⟩
  · have hlt : s.sp.val < 16 := hk ▸ k.isLt
    obtain rfl : (⟨s.sp.val, hlt⟩ : Fin 16) = k := Fin.ext hk
    exact ⟨_, exec_call_of_lt nnn hlt, zextAddr_toNat nnn, stackAt_pushPc_self s hlt rfl, rfl, frame_call hlt _⟩
  · exact ⟨_, exec_call_of_full nnn hfull, rfl, frame_raise s _⟩

/-- Settles O36 (R119): the entry that the return pops is the PC that the call pushed. -/
theorem callThenReturnComesBack : Obligations.CallThenReturnComesBack := by
  intro nnn s k hk
  obtain ⟨t, ht, -, hentry, hsp, -⟩ := (callPushesTheReturnAddress.2 nnn s).1 k hk
  refine ⟨t, ht, fun u husp hustack => ?_⟩
  obtain ⟨r, hr, hpc, hrsp, -⟩ := (returnPopsTheTopEntry.2 u).1 k (husp ▸ hsp)
  exact ⟨r, hr, hpc.trans (hustack.trans hentry), Fin.ext (hrsp.trans hk.symm)⟩

end Sys2Proof

/-! The register instructions that are left: 8xy0 to 8xy3, the subtractions, the shifts and Cxnn (spec/42_alu.md R132 to
R140, spec/45_keys_timers_random.md R191). -/

namespace Sys2Proof

open Machine Safety

/-- A row of family 8 is encoded when `n` alone gives its instruction. -/
theorem encoded_of_family8 {value : Word} {mk : Word → Instr} (hvalue : opField value = 0x8#4)
    (h : ∀ w, nField w = nField value → decodeFamily8 w = .ok (mk w)) : Encoded 0xF00F value mk :=
  encoded_of_opN fun w hop hn => (decodeWord_of_op_8 (hop.trans hvalue)).trans (h w hn)

/-- Settles O38 (R132 to R135, decision D19): each is a single write of V[x]. -/
theorem registerLogicIsBitwise : Obligations.RegisterLogicIsBitwise := by
  refine ⟨encoded_of_family8 rfl fun w hn => ?_, encoded_of_family8 rfl fun w hn => ?_,
    encoded_of_family8 rfl fun w hn => ?_, encoded_of_family8 rfl fun w hn => ?_, fun x y s => ⟨?_, ?_, ?_, ?_⟩⟩
  iterate 4
    · rw [decodeFamily8, hn]
      rfl
  · exact ⟨_, rfl, s.reg_setReg_self x _, frame_setReg s x _⟩
  · exact ⟨_, rfl, fun b => by rw [State.reg_setReg_self, BitVec.getLsbD_or], frame_setReg s x _⟩
  · exact ⟨_, rfl, fun b => by rw [State.reg_setReg_self, BitVec.getLsbD_and], frame_setReg s x _⟩
  · exact ⟨_, rfl, fun b => by rw [State.reg_setReg_self, BitVec.getLsbD_xor], frame_setReg s x _⟩

/-- NOT borrow as a number (R137). -/
theorem notBorrow_toNat (p q : Byte) : (notBorrow p q).toNat = if p.toNat ≥ q.toNat then 1 else 0 :=
  Bool.cond_decide _ 1 0

theorem byte_sub_toNat (p q : Byte) : (p - q).toNat = (p.toNat + 256 - q.toNat) % 256 := by
  have := q.isLt
  rw [BitVec.toNat_sub]
  omega

/-- Settles O40 (R137, R139, decision D17): a difference and its NOT borrow, both of the old values. -/
theorem subtractsSetNotBorrowLast : Obligations.SubtractsSetNotBorrowLast := by
  refine ⟨encoded_of_family8 rfl fun w hn => ?_, encoded_of_family8 rfl fun w hn => ?_, fun x y s => ⟨?_, ?_⟩⟩
  iterate 2
    · rw [decodeFamily8, hn]
      rfl
  · exact exec_resultAndFlag_spec rfl (byte_sub_toNat _ _) (notBorrow_toNat (s.reg x) (s.reg y))
  · exact exec_resultAndFlag_spec rfl (byte_sub_toNat _ _) (notBorrow_toNat (s.reg y) (s.reg x))

theorem byte_shr_toNat (b : Byte) : (b >>> 1).toNat = b.toNat / 2 := by
  rw [BitVec.toNat_ushiftRight, Nat.shiftRight_eq_div_pow, Nat.pow_one]

theorem byte_shl_toNat (b : Byte) : (b <<< 1).toNat = 2 * b.toNat % 256 := by
  rw [BitVec.toNat_shiftLeft, Nat.shiftLeft_eq, Nat.pow_one, Nat.mul_comm]

theorem bit0_toNat (b : Byte) : (bit0 b).toNat = b.toNat % 2 := by
  rw [bit0, BitVec.getLsbD, Nat.toNat_testBit, Nat.pow_zero, Nat.div_one]

theorem bit7_toNat (b : Byte) : (bit7 b).toNat = b.toNat / 128 := by
  have := b.isLt
  rw [bit7, BitVec.getLsbD, Nat.toNat_testBit, Nat.mod_eq_of_lt (by omega)]

/-- Settles O41 (R138, R140, decision D18): a shift of V[x] and the bit it drops. -/
theorem shiftsSetTheLostBitLast : Obligations.ShiftsSetTheLostBitLast := by
  refine ⟨encoded_of_family8 rfl fun w hn => ?_, encoded_of_family8 rfl fun w hn => ?_, fun x y s => ⟨?_, ?_⟩⟩
  iterate 2
    · rw [decodeFamily8, hn]
      rfl
  · exact exec_resultAndFlag_spec rfl (byte_shr_toNat (s.reg x)) (bit0_toNat (s.reg x))
  · exact exec_resultAndFlag_spec rfl (byte_shl_toNat (s.reg x)) (bit7_toNat (s.reg x))

/-- Settles O56 (R191, decision D26): a single write of V[x]. -/
theorem randomByteIsMasked : Obligations.RandomByteIsMasked :=
  ⟨encoded_of_op fun _ => decodeWord_of_op_C,
    fun x _ s => ⟨_, rfl, fun b => by rw [State.reg_setReg_self, BitVec.getLsbD_and], frame_setReg s x _⟩⟩

end Sys2Proof

/-! The index register, the register block and the glyphs (spec/43_index_memory.md R151, R152, R154, R155). -/

namespace Sys2Proof

open Machine Safety

/-- A row of family F is encoded when `nn` alone gives its instruction. -/
theorem encoded_of_familyF {value : Word} {mk : Word → Instr} (hvalue : opField value = 0xF#4)
    (h : ∀ w, nnField w = nnField value → decodeFamilyF w = .ok (mk w)) : Encoded 0xF0FF value mk :=
  encoded_of_opNn fun w hop hnn => (decodeWord_of_op_F (hop.trans hvalue)).trans (h w hnn)

/-! ### Effective addresses -/

/-- Settles O50 (R52, R56). -/
theorem blockAddressesAreDistinct : Obligations.BlockAddressesAreDistinct := fun s j _ hj hk =>
  ⟨s.ea_lt j, fun heq => by_contra fun hjk => ea_ne_ea s hj hk hjk heq⟩

theorem ea_congr {s u : State} (hi : u.i = s.i) (k : Nat) : u.ea k = s.ea k := by
  rw [State.ea, State.ea, hi]

/-! ### Writes of I -/

/-- Settles O44 (R151, decision D12): a sum of 16 bits wraps by itself. -/
theorem addToIndexWraps : Obligations.AddToIndexWraps := by
  refine ⟨encoded_of_familyF rfl fun w hnn => ?_, fun x s => ⟨_, rfl, ?_, frame_setI s _⟩⟩
  · rw [decodeFamilyF, hnn]
    rfl
  · rw [State.setI_i, BitVec.toNat_add, zextByte_toNat]

theorem glyphAddr_lowNibble_toNat (s : State) (b : Byte) :
    (s.glyphAddr (lowNibble b)).toNat = s.fontBase.val + 5 * (b.toNat % 16) := by
  rw [State.glyphAddr_toNat, lowNibble_val]

/-- Settles O45 (R152, decisions D7, D35): I becomes the glyph's address. -/
theorem fontPointerIsBasePlusFiveTimesDigit : Obligations.FontPointerIsBasePlusFiveTimesDigit := by
  refine ⟨encoded_of_familyF rfl fun w hnn => ?_,
    fun x s => ⟨_, rfl, glyphAddr_lowNibble_toNat s (s.reg x), frame_setI s _⟩⟩
  rw [decodeFamilyF, hnn]
  rfl

/-- The 80 font bytes are the rows of R31's table, one glyph after the other. -/
theorem fontData_eq_fontTable : ∀ (d : Fin 16) (k : Fin 5),
    Config.fontData.getD (5 * d.val + k.val) 0 = (fontTable.getD d.val []).getD k.val 0 := by
  decide

/-- Settles O23 (R31, R152): no effective address of the glyph wraps, since the font lies below 0x200. -/
theorem fontPointerFindsTheGlyph : Obligations.FontPointerFindsTheGlyph := by
  intro s x k hmem hk
  refine ⟨_, rfl, ?_⟩
  have hd : (s.reg x).toNat % 16 < 16 := Nat.mod_lt _ (by decide)
  have hea : (s.setI (s.glyphAddr (lowNibble (s.reg x)))).ea k =
      s.fontBase.val + (5 * ((s.reg x).toNat % 16) + k) := by
    have := s.fontBase.isLt
    rw [State.ea, State.setI_i, glyphAddr_lowNibble_toNat, Nat.mod_eq_of_lt (by simp only [Config.memSize]; omega),
      Nat.add_assoc]
  rw [hea, State.readByte, State.setI_mem, State.setI_fontBase, hmem, Memory.read_font _ (by omega)]
  exact fontData_eq_fontTable ⟨_, hd⟩ ⟨k, hk⟩

/-! ### The register block -/

theorem blockReg_val (k : Reg) : blockReg k.val = k := Fin.ext (Nat.mod_eq_of_lt k.isLt)

/-- A block store touches only the bytes it writes. -/
theorem frame_storeBlock {touched : Part → Prop} (s : State) (n : Nat) (h : ∀ k, k < n → touched (.mem (s.ea k))) :
    Frame touched s (s.storeBlock n) := by
  induction n with
  | zero => exact ⟨fun _ _ => rfl, rfl, rfl, rfl⟩
  | succ n ih => exact (ih fun k hk => h k (by omega)).trans (frame_writeByte _ _ (h n (by omega)))

/-- A block load touches only the registers it writes. -/
theorem frame_loadBlock {touched : Part → Prop} (s : State) {n : Nat} (hn : n ≤ 16)
    (h : ∀ k : Reg, k.val < n → touched (.v k)) : Frame touched s (s.loadBlock n) := by
  have hreg := fun z => s.reg_loadBlock n z hn
  rw [State.loadBlock_eq] at hreg ⊢
  exact frame_of_reg_eq s _ fun z hz => (hreg z).trans (if_neg fun hzn => hz (h z hzn))

/-- Settles O47 (R154, decision D20): `x + 1` stores at distinct addresses. -/
theorem storeBlockWritesV0ToVx : Obligations.StoreBlockWritesV0ToVx := by
  refine ⟨encoded_of_familyF rfl fun w hnn => ?_, fun x s => ⟨_, rfl, fun k hk => ?_, ?_⟩⟩
  · rw [decodeFamilyF, hnn]
    rfl
  · rw [(s.readByte_storeBlock (x.val + 1) 0 (by omega)).1 k.val (Nat.lt_succ_of_le hk), blockReg_val]
  · exact frame_storeBlock s _ fun k hk => ⟨k, Nat.le_of_lt_succ hk, rfl⟩

/-- Settles O48 (R155, decision D20): `x + 1` register writes. -/
theorem loadBlockReadsV0ToVx : Obligations.LoadBlockReadsV0ToVx := by
  refine ⟨encoded_of_familyF rfl fun w hnn => ?_, fun x s => ⟨_, rfl, fun k hk => ?_, ?_⟩⟩
  · rw [decodeFamilyF, hnn]
    rfl
  · rw [State.reg_loadBlock _ _ _ (by omega), if_pos (Nat.lt_succ_of_le hk)]
  · exact frame_loadBlock s (by omega) fun k hk => ⟨k, Nat.le_of_lt_succ hk, rfl⟩

/-- Settles O49: what a load reads at each address is what the store wrote there. -/
theorem loadBlockUndoesStoreBlock : Obligations.LoadBlockUndoesStoreBlock := by
  intro x s
  obtain ⟨t, ht, hstored, -⟩ := storeBlockWritesV0ToVx.2 x s
  refine ⟨t, ht, fun u hi hread => ?_⟩
  obtain ⟨r, hr, hloaded, -⟩ := loadBlockReadsV0ToVx.2 x u
  exact ⟨r, hr, fun k hk => by rw [hloaded k hk, ea_congr hi, hread, hstored k hk]⟩

end Sys2Proof

/-! The sprite draw (spec/44_display.md R172). -/

namespace Sys2Proof

open Machine Safety

theorem flagByte_eq_one_iff (f : Bool) : flagByte f = 1 ↔ f = true := by cases f <;> decide

theorem flagByte_zero_or_one (f : Bool) : flagByte f = 0 ∨ flagByte f = 1 := by cases f <;> decide

/-- New pixels and a flag touch pixels and VF and nothing else. -/
theorem frame_withFb_setVF (s : State) (fb : Framebuffer) (b : Byte) :
    Frame (fun p => p = .v 15 ∨ ∃ r c, p = .pixel r c) s ({ s with fb := fb }.setReg regVF b) :=
  ((frame_withFb s fb).mono fun _ => .inr).trans ((frame_setReg _ regVF b).mono fun _ => .inl)

/-- Settles O52 (decisions D22, D23): the laws of the sprite, and the flag written last. -/
theorem drawFlipsThePixelsUnderTheSprite : Obligations.DrawFlipsThePixelsUnderTheSprite := by
  refine ⟨encoded_of_op fun _ => decodeWord_of_op_D, fun x y n s => ?_⟩
  have hn : n.val ≤ 32 := by omega
  refine ⟨_, rfl, fun r c => s.pixel_sprite _ _ _ r c hn, ?_, ?_, frame_withFb_setVF s _ _⟩
  · exact (State.reg_setReg_self _ regVF _).symm ▸ (flagByte_eq_one_iff _).trans (s.hit_sprite _ _ _ hn)
  · exact (State.reg_setReg_self _ regVF _).symm ▸ flagByte_zero_or_one _

/-- A sprite is made of I and memory alone. -/
theorem spriteBit_congr {s u : State} (hi : u.i = s.i) (hread : ∀ a, u.readByte a = s.readByte a) (x0 y0 n : Nat)
    (r : Fin 32) (c : Fin 64) : spriteBit u x0 y0 n r c = spriteBit s x0 y0 n r c := by
  simp only [spriteBit, ea_congr hi, hread]

/-- Settles O53: the second draw flips the pixels that the first one flipped, and of these exactly those were on before
it that the first one turned on. -/
theorem drawingTwiceRestoresThePixels : Obligations.DrawingTwiceRestoresThePixels := by
  intro x y n s
  obtain ⟨t, ht, hpixel, -⟩ := drawFlipsThePixelsUnderTheSprite.2 x y n s
  refine ⟨t, ht, fun u x' y' hfb hi hread hx hy => ?_⟩
  obtain ⟨r, hr, hpixel', hflag, -⟩ := drawFlipsThePixelsUnderTheSprite.2 x' y' n u
  simp only [hfb, hx, hy, spriteBit_congr hi hread, hpixel] at hpixel' hflag
  refine ⟨r, hr, Framebuffer.ext_pixel fun i j => ?_, hflag.trans (exists₂_congr fun i j => ?_)⟩
  · rw [hpixel', Bool.bne_assoc, bne_self_eq_false, Bool.bne_false]
  · rw [hpixel]
    cases s.fb.pixel i j <;> simp

end Sys2Proof

/-! The key wait and what the timers' transfers write (spec/45_keys_timers_random.md R187 to R190). -/

namespace Sys2Proof

open Machine Safety

theorem frame_setDt (s : State) (b : Byte) : Frame (fun p => p = .dt) s (s.setDt b) := by
  refine ⟨fun p hp => ?_, rfl, rfl, rfl⟩
  cases p with
  | dt => exact absurd rfl hp
  | _ => rfl

theorem frame_setSt (s : State) (b : Byte) : Frame (fun p => p = .st) s (s.setSt b) := by
  refine ⟨fun p hp => ?_, rfl, rfl, rfl⟩
  cases p with
  | st => exact absurd rfl hp
  | _ => rfl

theorem lowestKey_of_keyDown {s : State} {k : Fin 16} (hk : s.keyDown k = true)
    (hlow : ∀ j : Fin 16, j < k → s.keyDown j = false) : lowestKey s.keys = some k.val :=
  (lowestKey_eq_some s.keys k.val).mpr ⟨k.isLt, hk, fun j hj => hlow ⟨j, hj.trans k.isLt⟩ hj⟩

theorem keyByte_toNat (k : Fin 16) : (BitVec.ofNat 8 k.val).toNat = k.val :=
  Nat.mod_eq_of_lt (by omega)

/-- Settles O54 (R187, decision D25): with no key down PC goes back, else the lowest key is written to V[x]. -/
theorem keyWaitPollsTheLowestKey : Obligations.KeyWaitPollsTheLowestKey := by
  refine ⟨encoded_of_familyF rfl fun w hnn => ?_, fun x s => ⟨fun h0 => ?_, fun k hk hlow => ?_⟩⟩
  · rw [decodeFamilyF, hnn]
    rfl
  · exact ⟨_, exec_ldKey_of_none x ((lowestKey_eq_none s.keys).mpr h0), rfl, frame_setPc s _⟩
  · refine ⟨_, exec_ldKey_of_some x (lowestKey_of_keyDown hk hlow), ?_, frame_setReg s x _⟩
    rw [State.reg_setReg_self, keyByte_toNat]

end Sys2Proof

/-! The footprint of every instruction (spec/10_state.md R20 to R22), from the frames of the updates it is made of; and
who alone can change which element, read off the footprints. -/

namespace Sys2Proof

open Machine Safety

theorem frame_skipIf (s : State) (c : Bool) : Frame (fun p => p = .pc) s (s.skipIf c) := by
  rw [State.skipIf_eq]
  exact frame_setPc s _

/-- Every instruction answers a next state and touches only its footprint. -/
theorem exec_frame (i : Instr) (s : State) : ∃ t, exec i s = .next t ∧ Frame (mayWrite i s) s t := by
  cases i with
  | cls => exact ⟨_, rfl, frame_withFb s _⟩
  | ret =>
    by_cases h : 0 < s.sp.val
    · exact ⟨_, exec_ret_of_pos h, (frame_popPc h).mono fun _ => Or.imp_right fun hp => .inl ⟨h, hp⟩⟩
    · have h0 : s.sp.val = 0 := by omega
      exact ⟨_, exec_ret_of_zero h0, (frame_raise s _).mono fun _ => Or.imp_right fun hp => .inr ⟨h0, hp⟩⟩
  | call nnn =>
    by_cases h : s.sp.val < 16
    · exact ⟨_, exec_call_of_lt nnn h, (frame_call h _).mono fun _ =>
        Or.imp_right fun hp => .inl ⟨h, hp.imp_right fun hp => ⟨_, rfl, hp⟩⟩⟩
    · have hfull : s.sp.val = 16 := by omega
      exact ⟨_, exec_call_of_full nnn hfull, (frame_raise s _).mono fun _ =>
        Or.imp_right fun hp => .inr ⟨hfull, hp⟩⟩
  | jp | jpV0 => exact ⟨_, rfl, frame_setPc s _⟩
  | seImm | sneImm | seReg | sneReg | skp | sknp => exact ⟨_, rfl, frame_skipIf s _⟩
  | ldImm | addImm | rnd | ldReg | orReg | andReg | xorReg | ldFromDt => exact ⟨_, rfl, frame_setReg s _ _⟩
  | addReg | sub | shr | subn | shl => exact ⟨_, rfl, frame_setResultAndFlag s _ _ _⟩
  | ldI | addI | ldFont => exact ⟨_, rfl, frame_setI s _⟩
  | drw => exact ⟨_, rfl, frame_withFb_setVF s _ _⟩
  | ldKey x =>
    cases h : lowestKey s.keys with
    | none =>
      have h0 := (lowestKey_eq_none s.keys).mp h
      exact ⟨_, exec_ldKey_of_none x h, (frame_setPc s _).mono fun _ hp => .inl ⟨h0, hp⟩⟩
    | some k =>
      have h0 : s.keys ≠ 0 := fun h0 => absurd (h.symm.trans ((lowestKey_eq_none s.keys).mpr h0)) nofun
      exact ⟨_, exec_ldKey_of_some x h, (frame_setReg s x _).mono fun _ hp => .inr ⟨h0, hp⟩⟩
  | ldDt => exact ⟨_, rfl, frame_setDt s _⟩
  | ldSt => exact ⟨_, rfl, frame_setSt s _⟩
  | ldBcd x =>
    obtain ⟨t, ht, -, -, -, hframe⟩ := decimalDigitsAreStored.2 x s
    exact ⟨t, ht, hframe⟩
  | storeRegs x =>
    obtain ⟨t, ht, -, hframe⟩ := storeBlockWritesV0ToVx.2 x s
    exact ⟨t, ht, hframe⟩
  | loadRegs x =>
    obtain ⟨t, ht, -, hframe⟩ := loadBlockReadsV0ToVx.2 x s
    exact ⟨t, ht, hframe⟩

/-- Settles O20. -/
theorem execWritesOnlyItsFootprint : Obligations.ExecWritesOnlyItsFootprint := fun i s _ h => of_exec h (exec_frame i s)

/-- A part that reads differently after an instruction is in its footprint. -/
theorem mayWrite_of_view_ne {i : Instr} {s t : State} {p : Part} (h : exec i s = .next t) (hp : view t p ≠ view s p) :
    mayWrite i s p :=
  by_contra fun hnot => hp ((execWritesOnlyItsFootprint i s t h).1 p hnot)

theorem faultCode_inj {a b : Option Fault} (h : faultCode a = faultCode b) : a = b := by
  revert h
  cases a with
  | none => cases b with
    | none => exact fun _ => rfl
    | some g => cases g <;> decide
  | some f => cases b with
    | none => cases f <;> decide
    | some g => cases f <;> cases g <;> decide

/-! ### Who writes which part -/

section Writers

/-! Each law looks one part up in the footprints of all instructions. -/

variable {i : Instr} {s : State}

theorem writer_of_pixel {r : Fin 32} {c : Fin 64} (h : mayWrite i s (.pixel r c)) :
    i = .cls ∨ ∃ x y n, i = .drw x y n := by
  cases i <;> simp_all [mayWrite]

theorem writer_of_mem {a : Nat} (h : mayWrite i s (.mem a)) : ∃ x, i = .ldBcd x ∨ i = .storeRegs x := by
  cases i <;> simp_all [mayWrite]

theorem writer_of_stack {k : Fin 16} (h : mayWrite i s (.stack k)) : ∃ nnn, i = .call nnn := by
  cases i <;> simp_all [mayWrite]

theorem writer_of_sp (h : mayWrite i s .sp) : i = .ret ∨ ∃ nnn, i = .call nnn := by
  cases i <;> simp_all [mayWrite]

theorem writer_of_i (h : mayWrite i s .i) : (∃ nnn, i = .ldI nnn) ∨ ∃ x, i = .addI x ∨ i = .ldFont x := by
  cases i <;> simp_all [mayWrite]

theorem writer_of_dt (h : mayWrite i s .dt) : ∃ x, i = .ldDt x := by
  cases i <;> simp_all [mayWrite]

theorem writer_of_st (h : mayWrite i s .st) : ∃ x, i = .ldSt x := by
  cases i <;> simp_all [mayWrite]

/-- Only a stack instruction on an empty or a full stack may write FAULT. -/
theorem writer_of_fault (h : mayWrite i s .fault) :
    (i = .ret ∧ s.sp.val = 0) ∨ (∃ nnn, i = .call nnn) ∧ s.sp.val = 16 := by
  cases i <;> simp_all [mayWrite]

theorem not_mayWrite_keys : ¬ mayWrite i s .keys := by
  cases i <;> simp [mayWrite]

end Writers

/-- No instruction writes KEYS. -/
theorem exec_keys {i : Instr} {s t : State} (h : exec i s = .next t) : t.keys = s.keys :=
  BitVec.eq_of_toNat_eq (by_contra fun hne => not_mayWrite_keys (mayWrite_of_view_ne (p := .keys) h hne))

/-- Settles O21: an element that differs is in the footprint, and the footprint names its writers. -/
theorem eachElementHasItsSoleWriters : Obligations.EachElementHasItsSoleWriters := by
  intro i s t h
  refine ⟨fun ⟨r, c, hne⟩ => ?_, fun ⟨a, hne⟩ => ?_, fun ⟨k, hne⟩ => ?_, fun hne => ?_, fun hne => ?_, fun hne => ?_,
    fun hne => ?_, exec_keys h, fun hne => ?_⟩
  · exact writer_of_pixel (mayWrite_of_view_ne (p := .pixel r c) h fun e =>
      hne (Function.LeftInverse.injective Bool.ofNat_toNat e))
  · exact writer_of_mem (mayWrite_of_view_ne (p := .mem a) h fun e => hne (BitVec.eq_of_toNat_eq e))
  · exact writer_of_stack (mayWrite_of_view_ne (p := .stack k) h fun e => hne (BitVec.eq_of_toNat_eq e))
  · exact writer_of_sp (mayWrite_of_view_ne (p := .sp) h fun e => hne (Fin.ext e))
  · exact writer_of_i (mayWrite_of_view_ne (p := .i) h fun e => hne (BitVec.eq_of_toNat_eq e))
  · exact writer_of_dt (mayWrite_of_view_ne (p := .dt) h fun e => hne (BitVec.eq_of_toNat_eq e))
  · exact writer_of_st (mayWrite_of_view_ne (p := .st) h fun e => hne (BitVec.eq_of_toNat_eq e))
  · exact (writer_of_fault (mayWrite_of_view_ne (p := .fault) h fun e => hne (faultCode_inj e))).imp And.left And.left

/-- An instruction other than the six flag writers that may write VF names register 15 as a destination (R22). -/
theorem writer_of_vf {i : Instr} {s : State} (h : mayWrite i s (.v 15))
    (hnot : ∀ x y, i ≠ .addReg x y ∧ i ≠ .sub x y ∧ i ≠ .shr x y ∧ i ≠ .subn x y ∧ i ≠ .shl x y ∧ ∀ n, i ≠ .drw x y n) :
    (∃ nn, i = .ldImm 15 nn ∨ i = .addImm 15 nn ∨ i = .rnd 15 nn) ∨
      (∃ y, i = .ldReg 15 y ∨ i = .orReg 15 y ∨ i = .andReg 15 y ∨ i = .xorReg 15 y) ∨
      i = .ldFromDt 15 ∨ i = .ldKey 15 ∨ i = .loadRegs 15 := by
  cases i
  case loadRegs x =>
    obtain ⟨k, hk, hv⟩ := h
    obtain rfl : 15 = k := Part.v.inj hv
    exact .inr (.inr (.inr (.inr (congrArg Instr.loadRegs (Fin.last_le_iff.mp hk)))))
  all_goals simp_all [mayWrite]

/-- Settles O42 (R22): the flag writers end in a flag, and every other writer of VF has it as a destination. -/
theorem flagWritersLeaveZeroOrOne : Obligations.FlagWritersLeaveZeroOrOne := by
  intro i s t h
  refine ⟨?_, fun hnot hne => writer_of_vf
    (mayWrite_of_view_ne (p := .v 15) h fun e => hne (BitVec.eq_of_toNat_eq e)) hnot⟩
  rintro ⟨x, y, rfl | rfl | rfl | rfl | rfl | ⟨n, rfl⟩⟩
  case inr.inr.inr.inr.inr =>
    exact of_exec h (have ⟨u, hu, _, _, hflag, _⟩ := drawFlipsThePixelsUnderTheSprite.2 x y n s; ⟨u, hu, hflag⟩)
  all_goals
    cases h
    rw [reg_setResultAndFlag_flag]
    exact flagByte_zero_or_one _

end Sys2Proof

/-! One `Step` (spec/40_step_cycle.md R92, R97, R101) and its outcomes (spec/60_exceptions.md R200 to R206): when it
stops, which condition it latches, and what it leaves as it was. -/

namespace Sys2Proof

open Machine Safety

/-! ### The step of an instruction -/

/-- The step at bytes that decode to an instruction: its answer on the advanced state, then the end of the `Step`. -/
theorem step_of_fetches {s u : State} {i : Instr} (hrun : Running s) (hfetch : Fetches s i)
    (hexec : exec i s.hostTurn.advance = .next u) : step s = .next u.endExec :=
  step_of_exec hrun.1 (s.fetchInBounds_iff.mpr hrun.2) ((decode_fetch s i).mp hfetch) hexec

/-- The same where the instruction latches nothing. -/
theorem step_of_fetches_running {s u : State} {i : Instr} (hrun : Running s) (hfetch : Fetches s i)
    (hexec : exec i s.hostTurn.advance = .next u) (hu : u.fault = none) : step s = .next (u.finish .ok).useInputs := by
  rw [step_of_fetches hrun hfetch hexec, State.endExec_of_running hu]

/-- Settles O7 (R92, decisions D4, D5): the advanced state is the one with PC two higher and the host's keys. -/
theorem stepRunsTheDecodedInstruction : Obligations.StepRunsTheDecodedInstruction := by
  intro s i hrun hfetch
  obtain ⟨t, ht, -⟩ := exec_effect i s.hostTurn.advance
  refine ⟨t, ht, (step_of_fetches hrun hfetch ht).trans (congrArg Host.Outcome.next ?_)⟩
  by_cases hf : t.fault = none
  · rw [State.endExec_of_running hf, if_pos hf]
    rfl
  · obtain ⟨f, hf'⟩ := Option.ne_none_iff_exists'.mp hf
    rw [State.endExec_of_fatal hf', if_neg hf]
    rfl

/-! ### Answer or stop -/

/-- A core that is not halted answers a next state. -/
theorem step_next {s : State} (hf : s.fault = none) : ∃ t, step s = .next t := by
  cases hb : s.fetchInBounds with
  | false => exact ⟨_, step_of_outOfBounds hf hb⟩
  | true =>
    cases hd : decodeWord s.fetchWord with
    | error e => exact ⟨_, step_of_unknown hf hb hd⟩
    | ok i =>
      obtain ⟨u, hu, -⟩ := exec_effect i s.hostTurn.advance
      exact ⟨_, step_of_exec hf hb hd hu⟩

/-- Settles O9 (decision D15, log 6). -/
theorem stepStopsExactlyWhenHalted : Obligations.StepStopsExactlyWhenHalted := by
  intro s
  cases hf : s.fault with
  | none =>
    obtain ⟨t, ht⟩ := step_next hf
    rw [ht]
    exact ⟨fun f => ⟨nofun, nofun⟩, nofun⟩
  | some g =>
    rw [step_of_halted hf]
    exact ⟨fun f => ⟨fun h => congrArg some (Host.Outcome.fault.inj h),
      fun h => congrArg Host.Outcome.fault (Option.some.inj h)⟩, nofun⟩

/-! ### The fatal conditions -/

/-- An effect that halts the core is the latch of its condition. -/
theorem Effect.eq_raise {s t : State} {f : Fault} (h : Effect s t) (hs : s.fault = none) (ht : t.fault = some f) :
    t = s.raise f := by
  cases h with
  | fatal g => exact congrArg s.raise (Option.some.inj ht)
  | skip c =>
    rw [State.skipIf_eq] at ht
    exact absurd (hs.symm.trans ht) nofun
  | _ => exact absurd (hs.symm.trans ht) nofun

/-- A fatal step is the latch of its condition on the state as the host left it: the advance of PC is lost with the
PC. -/
theorem eq_of_fatal_step {s t : State} {f : Fault} (hs : s.fault = none) (hstep : step s = .next t)
    (ht : t.fault = some f) : t = (s.hostTurn.raise f).useInputs := by
  obtain ⟨-, ⟨-, rfl⟩ | ⟨-, -, rfl⟩ | ⟨-, i, u, -, hexec, rfl⟩⟩ := step_next_cases hstep
  · obtain rfl : Fault.pcOutOfBounds = f := Option.some.inj ht
    rfl
  · exact absurd (hs.symm.trans ht) nofun
  · rw [endExec_fault] at ht
    obtain rfl := (effect_of_exec hexec).eq_raise hs ht
    rfl

/-- Settles O11 (R206, decision D15). -/
theorem fatalStepChangesNothingElse : Obligations.FatalStepChangesNothingElse := by
  intro s t f hs hstep ht
  obtain rfl := eq_of_fatal_step hs hstep ht
  refine ⟨rfl, rfl, ⟨fun p hp => ?_, rfl⟩, step_of_halted rfl⟩
  cases p with
  | pc => exact absurd (.inl rfl) hp
  | fault => exact absurd (.inr (.inl rfl)) hp
  | keys => exact absurd (.inr (.inr rfl)) hp
  | _ => rfl

/-- Which instruction latches which condition (R202, R203). -/
theorem exec_fault_iff {i : Instr} {s t : State} (hs : s.fault = none) (h : exec i s = .next t) :
    (t.fault = some .stackUnderflow ↔ i = .ret ∧ s.sp.val = 0) ∧
      (t.fault = some .stackOverflow ↔ (∃ nnn, i = .call nnn) ∧ s.sp.val = 16) ∧ t.fault ≠ some .pcOutOfBounds := by
  by_cases hret : i = .ret ∧ s.sp.val = 0
  · obtain ⟨rfl, h0⟩ := hret
    obtain rfl := Host.Outcome.next.inj ((exec_ret_of_zero h0).symm.trans h)
    simp [h0]
  by_cases hcall : (∃ nnn, i = .call nnn) ∧ s.sp.val = 16
  · obtain ⟨⟨nnn, rfl⟩, hfull⟩ := hcall
    obtain rfl := Host.Outcome.next.inj ((exec_call_of_full nnn hfull).symm.trans h)
    simp [hfull]
  · have ht : t.fault = none := by
      rw [← hs]
      exact faultCode_inj (by_contra fun hne =>
        (writer_of_fault (mayWrite_of_view_ne (p := .fault) h hne)).elim hret hcall)
    simp only [ht, hret, hcall, reduceCtorEq, ne_eq, not_false_eq_true, and_self]

theorem fetches_iff_of_decode {s : State} {i : Instr} (hd : decodeWord s.fetchWord = .ok i) (j : Instr) :
    Fetches s j ↔ i = j := by
  rw [Fetches, decode_fetch, hd, Except.ok.injEq]

theorem not_fetches_of_unknown {s : State} {e : DecodeError} (hd : decodeWord s.fetchWord = .error e) (j : Instr) :
    ¬ Fetches s j := by
  rw [Fetches, decode_fetch, hd]
  nofun

/-- Settles O10 (R202 to R204, decisions D6, D10): a fetch out of bounds, or the two stack instructions at their
bounds. -/
theorem fatalConditionsAreExactlyThree : Obligations.FatalConditionsAreExactlyThree := by
  intro s t hs hstep
  obtain ⟨-, ⟨hb, rfl⟩ | ⟨hb, ⟨e, hd⟩, rfl⟩ | ⟨hb, i, u, hd, hexec, rfl⟩⟩ := step_next_cases hstep
  · have hpc : ¬ s.pc.toNat ≤ 0xFFE := by rw [← State.fetchInBounds_iff, hb]; decide
    simp [hpc, Nat.lt_of_not_le hpc]
  · have hpc := s.fetchInBounds_iff.mp hb
    have hfault : (s.hostTurn.endUnknown s.fetchWord s.pc).fault = none := hs
    simp [hfault, hpc, not_fetches_of_unknown hd]
  · have hpc := s.fetchInBounds_iff.mp hb
    obtain ⟨hunder, hover, hbounds⟩ := exec_fault_iff (s := s.hostTurn.advance) hs hexec
    simp [hpc, hunder, hover, hbounds, fetches_iff_of_decode hd]

/-! ### Unknown words, the jump to itself, the decay -/

/-- Settles O13 (R201, decision D16). -/
theorem unknownWordOnlyAdvancesAndDecays : Obligations.UnknownWordOnlyAdvancesAndDecays := by
  rintro s w ⟨hf, hpc⟩ rfl hd
  refine ⟨_, step_of_unknown hf (s.fetchInBounds_iff.mpr hpc) hd, advanced_pc_toNat hpc, decayed_toNat s.dt s.ticks,
    decayed_toNat s.st s.ticks, rfl, rfl, fun p hp => ?_, rfl⟩
  cases p with
  | pc => exact absurd (.inl rfl) hp
  | dt => exact absurd (.inr (.inl rfl)) hp
  | st => exact absurd (.inr (.inr (.inl rfl))) hp
  | keys => exact absurd (.inr (.inr (.inr rfl))) hp
  | _ => rfl

/-- Settles O14 (R101): the jump writes the PC that the advance took away. -/
theorem jumpToSelfOnlyDecaysTimers : Obligations.JumpToSelfOnlyDecaysTimers := by
  intro s nnn hrun hfetch hself
  refine ⟨_, step_of_fetches_running hrun hfetch rfl hrun.1, decayed_toNat s.dt s.ticks, decayed_toNat s.st s.ticks,
    rfl, fun p hp => ?_, rfl⟩
  cases p with
  | pc => exact (zextAddr_toNat nnn).trans hself.symm
  | dt => exact absurd (.inl rfl) hp
  | st => exact absurd (.inr (.inl rfl)) hp
  | keys => exact absurd (.inr (.inr rfl)) hp
  | _ => rfl

/-- Settles O15 (R97, decision D32): as numbers a decay is a truncated subtraction. -/
theorem timerDecaySaturatesAndAddsUp : Obligations.TimerDecaySaturatesAndAddsUp := by
  intro b m n
  refine ⟨?_, BitVec.eq_of_toNat_eq ?_, BitVec.eq_of_toNat_eq (decayed_toNat b 0)⟩
  · rw [decayed_toNat]
    omega
  · rw [decayed_toNat, decayed_toNat, decayed_toNat, Nat.sub_sub]

/-! ### Timers and keys in a whole step -/

theorem soundActive_iff (s : State) : s.soundActive = true ↔ s.st.toNat ≠ 0 :=
  byte_bne_iff_toNat_ne s.st 0

/-- Settles O55 (R188 to R190, decisions D2, D4, D32): the transfer is the execute phase, the decay comes after it. -/
theorem timerTransfersComeBeforeTheDecay : Obligations.TimerTransfersComeBeforeTheDecay := by
  refine ⟨encoded_of_familyF rfl fun w hnn => ?_, encoded_of_familyF rfl fun w hnn => ?_,
    encoded_of_familyF rfl fun w hnn => ?_, fun x s => ⟨⟨_, rfl, s.reg_setReg_self x _, frame_setReg s x _⟩,
      ⟨_, rfl, rfl, frame_setDt s _⟩, ⟨_, rfl, rfl, frame_setSt s _⟩,
      fun hrun => ⟨fun hfetch => ?_, fun hfetch => ?_, fun hfetch => ?_⟩⟩⟩
  iterate 3
    · rw [decodeFamilyF, hnn]
      rfl
  · exact ⟨_, step_of_fetches_running hrun hfetch rfl hrun.1, s.reg_setReg_self x _, decayed_toNat s.dt s.ticks⟩
  · exact ⟨_, step_of_fetches_running hrun hfetch rfl hrun.1, decayed_toNat (s.reg x) s.ticks⟩
  · have hst := decayed_toNat (s.reg x) s.ticks
    refine ⟨_, step_of_fetches_running hrun hfetch rfl hrun.1, hst, (soundActive_iff _).trans ?_⟩
    change (decayed (s.reg x) s.ticks).toNat ≠ 0 ↔ _
    rw [hst]
    omega

/-- A skip moves PC by four under its condition, else by two. -/
theorem step_skip_pc {s : State} {i : Instr} {c : Bool} {P : Prop} [Decidable P] (hrun : Running s)
    (hfetch : Fetches s i) (hexec : exec i s.hostTurn.advance = .next (s.hostTurn.advance.skipIf c))
    (hc : c = true ↔ P) : ∃ t, step s = .next t ∧ t.pc.toNat = s.pc.toNat + (if P then 4 else 2) := by
  refine ⟨_, step_of_fetches hrun hfetch hexec, ?_⟩
  have hpc := hrun.2
  rw [endExec_pc, State.skipIf_eq, State.setPc_pc, State.advance_pc, State.hostTurn_pc]
  simp only [hc]
  split_ifs <;> bv_omega

/-- Settles O60 (R29, R185 to R187, decisions D5, D24, D25): a step begins with the host's turn, which overwrites
KEYS. -/
theorem eachStepSeesTheKeysTheHostLeft : Obligations.EachStepSeesTheKeysTheHostLeft := by
  refine fun s => ⟨fun _ => rfl, fun hrun x => ⟨fun hfetch h0 => ?_, fun hfetch k hk hlow => ?_, fun hfetch => ?_,
    fun hfetch => ?_⟩⟩
  · have hexec := exec_ldKey_of_none x (s := s.hostTurn.advance) ((lowestKey_eq_none _).mpr h0)
    refine ⟨_, step_of_fetches hrun hfetch hexec, ?_, endExec_reg _ x⟩
    rw [endExec_pc]
    exact BitVec.add_sub_cancel s.pc 2
  · have hexec := exec_ldKey_of_some x (lowestKey_of_keyDown (s := s.hostTurn.advance) hk hlow)
    refine ⟨_, step_of_fetches hrun hfetch hexec, ?_, ?_⟩
    · rw [endExec_pc]
      exact advanced_pc_toNat hrun.2
    · rw [endExec_reg, State.reg_setReg_self, keyByte_toNat]
  · exact step_skip_pc hrun hfetch rfl (by rw [keyDown_lowNibble]; rfl)
  · exact step_skip_pc hrun hfetch rfl (by rw [keyDown_lowNibble, Bool.not_eq_true']; rfl)

end Sys2Proof

/-! The transactions of the host (spec/60_exceptions.md R214, spec/70_reset_and_hazards.md R230, R232): reset, load,
keys, read-outs and `Step`, and the invariants through all of them. -/

namespace Sys2Proof

open Machine Safety

/-! ### Reset -/

theorem reg_replicate_zero (s : State) (h : s.v = Vector.replicate 16 0) (x : Reg) : s.reg x = 0 := by
  simp [State.reg, h]

theorem stackAt_replicate_zero (s : State) (h : s.stack = Vector.replicate 16 0) (k : Fin 16) : s.stackAt k = 0 := by
  simp [State.stackAt, h]

/-- `Initialize` leaves every element at its reset value, whatever the state was (R35). -/
theorem atReset_hostInit (s : State) : AtReset s.hostInit :=
  ⟨fun _ hk => Memory.read_font s.fontBase hk, fun _ _ ha => Memory.read_outside_font s.fontBase ha,
    reg_replicate_zero _ rfl, rfl, rfl, rfl, stackAt_replicate_zero _ rfl, rfl, rfl, Framebuffer.pixel_blank, rfl, rfl,
    rfl⟩

/-- Settles O22 (R35, decision D27): the reset state is what `Initialize` makes of itself. -/
theorem resetStateIsAsListed : Obligations.ResetStateIsAsListed := atReset_hostInit State.reset

/-- Settles O24 (R36, R230, decision D27). -/
theorem initializeResetsAnyState : Obligations.InitializeResetsAnyState := by
  refine ⟨fun s => ⟨_, rfl, atReset_hostInit s, rfl, rfl⟩, ⟨_, rfl, resetStateIsAsListed⟩, fun tr htr => ?_⟩
  cases tr with
  | init => exact absurd rfl htr
  | _ => rfl

/-- A state at its reset values has its stack empty and PC at 0x200. -/
theorem controlFlowInBounds_of_atReset {s : State} (h : AtReset s) : ControlFlowInBounds s := by
  obtain ⟨-, -, -, -, hpc, hsp, -⟩ := h
  refine fun _ => ⟨?_, fun k hk => ?_⟩
  · rw [hpc]
    decide
  · rw [hsp] at hk
    exact absurd hk (Nat.not_lt_zero _)

/-- Settles O18. -/
theorem invariantsHoldAtReset : Obligations.InvariantsHoldAtReset :=
  ⟨Memory.wf_reset, controlFlowInBounds_of_atReset resetStateIsAsListed⟩

/-! ### Program load -/

/-- Settles O25 (R232, decision D28). -/
theorem loadProgramCopiesOrLeavesAlone : Obligations.LoadProgramCopiesOrLeavesAlone := by
  intro s bytes
  constructor
  · intro hlen
    have hload := s.hostLoad_eq bytes hlen
    have hread := fun a => s.readByte_hostLoad bytes a hlen
    simp only [transact, hload] at hread ⊢
    refine ⟨_, rfl, fun k hk => ?_, fun p hp => ?_, rfl, rfl, rfl⟩
    · rw [hread, if_pos (by simp only [Config.progBase]; omega), Config.progBase, Nat.add_sub_cancel_left]
    · cases p with
      | mem a =>
        refine congrArg BitVec.toNat ((hread a).trans (if_neg fun ⟨hlo, hhi⟩ =>
          hp ⟨a - 0x200, ?_, congrArg Part.mem ?_⟩))
        · simp only [Config.progBase] at hlo hhi
          omega
        · exact (Nat.add_sub_cancel' hlo).symm
      | _ => rfl
  · intro hlen
    rw [transact, s.hostLoad_tooLarge bytes hlen]

/-- A load answers another memory in the same state, canonical if the old one was. -/
theorem hostLoad_store (s : State) (bytes : List Byte) :
    ∃ m, (s.hostLoad bytes).1 = { s with mem := m } ∧
      (Memory.wf s.fontBase s.mem = true → Memory.wf s.fontBase m = true) := by
  by_cases hlen : bytes.length ≤ 3584
  · rw [s.hostLoad_eq bytes hlen]
    exact ⟨_, rfl, Memory.wf_writeBytes s.fontBase bytes s.mem (by simp only [Config.progBase]; omega)⟩
  · rw [s.hostLoad_tooLarge bytes (by omega)]
    exact ⟨s.mem, rfl, id⟩

/-! ### Keys and read-outs -/

/-- Settles O26 (R214). -/
theorem setKeyStateSetsOneKey : Obligations.SetKeyStateSetsOneKey := by
  refine fun s k pressed => ⟨fun hk => ?_, fun hk => ?_⟩
  · refine ⟨_, if_pos (decide_eq_true hk), fun j => getLsbD_keysWith s.keys k j.val pressed j.isLt, fun p hp => ?_, rfl,
      rfl, rfl⟩
    cases p with
    | keys => exact absurd rfl hp
    | _ => rfl
  · exact if_neg (by simp only [keyIndexOk, decide_eq_true_eq]; omega)

/-- Bit `64 r + c` of the read-out is the pixel in row `r` and column `c` (R170, decision D30). -/
theorem getLsbD_framebufferBits (s : State) (r : Fin 32) (c : Fin 64) :
    s.framebufferBits.getLsbD (r.val * 64 + c.val) = s.fb.pixel r c := by
  have hlt : r.val * 64 + c.val < 2048 := by omega
  rw [State.framebufferBits, BitVec.getLsbD_ofNat, testBit_flattenRows _ _ _ c.isLt, decide_eq_true hlt, Bool.true_and,
    Framebuffer.pixel]
  simp

/-- Settles O27. -/
theorem readOutsShowPixelsAndSound : Obligations.ReadOutsShowPixelsAndSound := fun s =>
  ⟨⟨_, rfl, getLsbD_framebufferBits s⟩, _, rfl, soundActive_iff s⟩

/-! ### The `Step` transaction -/

/-- The state on which the transaction runs its step: its own inputs come first. -/
def withStepInput (s : State) (ticks : Nat) (rnd : Byte) : State :=
  { s with inputs := { ticks := ticks, rnd := rnd, keys := s.keys } :: s.inputs }

theorem hostStep_of_next {s t : State} {ticks : Nat} {rnd : Byte} (h : step (withStepInput s ticks rnd) = .next t) :
    s.hostStep ticks rnd = .next (t, .stepped (t.report.getD .ok)) := by
  rw [withStepInput] at h
  rw [State.hostStep, h]

theorem hostStep_of_halted {s : State} {f : Fault} (ticks : Nat) (rnd : Byte) (hf : s.fault = some f) :
    s.hostStep ticks rnd = .next (s, .stepped (.fatal f)) := by
  have h := step_of_halted (s := withStepInput s ticks rnd) hf
  rw [withStepInput] at h
  rw [State.hostStep, h]

/-- The state after the transaction is the one before, on a halted core, or the one its step answers. -/
theorem hostStep_cases {s u : State} {ticks : Nat} {rnd : Byte} {r : Result}
    (h : s.hostStep ticks rnd = .next (u, r)) :
    (s.fault ≠ none ∧ u = s) ∨ step (withStepInput s ticks rnd) = .next u := by
  cases hf : s.fault with
  | some f =>
    rw [hostStep_of_halted ticks rnd hf] at h
    cases h
    exact .inl ⟨nofun, rfl⟩
  | none =>
    obtain ⟨t, ht⟩ := step_next (s := withStepInput s ticks rnd) hf
    rw [hostStep_of_next ht] at h
    cases h
    exact .inr ht

/-- Settles O12 (R206, R210, decisions D15, D28): the step stops and the state is kept; no other transaction but
`Initialize` writes FAULT. -/
theorem onlyInitializeClearsTheLatch : Obligations.OnlyInitializeClearsTheLatch := by
  refine fun s f hf => ⟨fun ticks rnd => hostStep_of_halted ticks rnd hf, fun tr u r htr => ?_⟩
  cases tr with
  | init =>
    cases htr
    exact .inr ⟨rfl, rfl⟩
  | loadProgram bytes =>
    cases htr
    obtain ⟨m, hload, -⟩ := hostLoad_store s bytes
    rw [hload]
    exact .inl hf
  | setKeyState k pressed =>
    rw [transact] at htr
    split at htr
    · cases htr
      exact .inl hf
    · cases htr
  | step ticks rnd =>
    cases (hostStep_of_halted ticks rnd hf).symm.trans htr
    exact .inl hf
  | getFramebuffer | isSoundActive =>
    cases htr
    exact .inl hf

/-- Settles O19: `Initialize` is a reset, a load is a store, a `Step` is a step, and the others touch neither memory nor
PC nor the stack. -/
theorem hostTransactionsKeepInvariants : Obligations.HostTransactionsKeepInvariants := by
  intro tr s u r hmem hflow htr
  cases tr with
  | init =>
    cases htr
    exact ⟨rfl, controlFlowInBounds_of_atReset (atReset_hostInit s)⟩
  | loadProgram bytes =>
    cases htr
    obtain ⟨m, hload, hwf⟩ := hostLoad_store s bytes
    rw [hload]
    exact ⟨hwf hmem, hflow⟩
  | setKeyState k pressed =>
    rw [transact] at htr
    split at htr
    · cases htr
      exact ⟨hmem, hflow⟩
    · cases htr
  | step ticks rnd =>
    obtain ⟨-, rfl⟩ | hstep := hostStep_cases htr
    · exact ⟨hmem, hflow⟩
    · exact ⟨stepKeepsMemoryCanonical (withStepInput s ticks rnd) u hmem hstep,
        stepKeepsControlFlowInBounds (withStepInput s ticks rnd) u hflow hstep⟩
  | getFramebuffer | isSoundActive =>
    cases htr
    exact ⟨hmem, hflow⟩

/-- What every step does around its instruction: it reports, takes KEYS from the host, uses one input up, and keeps
FONT_BASE. -/
theorem step_bookkeeping {s t : State} (h : step s = .next t) :
    (∃ o, t.report = some o) ∧ t.keys = s.hostKeys ∧ t.inputs = s.inputs.tail ∧ t.draws = s.draws + 1 ∧
      t.fontBase = s.fontBase := by
  obtain ⟨hf, ⟨-, rfl⟩ | ⟨-, -, rfl⟩ | ⟨-, i, u, -, hexec, rfl⟩⟩ := step_next_cases h
  · exact ⟨⟨_, rfl⟩, rfl, rfl, rfl, rfl⟩
  · exact ⟨⟨_, rfl⟩, rfl, rfl, rfl, rfl⟩
  · obtain ⟨-, hbase, hinputs, hdraws⟩ := execWritesOnlyItsFootprint i _ u hexec
    have hkeys := exec_keys hexec
    refine ⟨?_, ?_, ?_, ?_, ?_⟩
    · cases hu : u.fault with
      | none => exact ⟨_, congrArg State.report (State.endExec_of_running hu)⟩
      | some f =>
        obtain rfl := (effect_of_exec hexec).eq_raise hf hu
        exact ⟨_, rfl⟩
    · rw [endExec_keys, hkeys]; rfl
    · rw [endExec_inputs, hinputs]; rfl
    · rw [endExec_draws, hdraws]; rfl
    · rw [endExec_fontBase, hbase]; rfl

/-- Settles O28 (R91, decisions D2, D5): the transaction is a step whose first input is its own arguments with KEYS as
it stands. -/
theorem stepTransactionTakesItsArguments : Obligations.StepTransactionTakesItsArguments := by
  intro s ticks rnd hf
  obtain ⟨u, hu⟩ := step_next (s := withStepInput s ticks rnd) hf
  obtain ⟨⟨o, ho⟩, hkeys, hinputs, hdraws, hbase⟩ := step_bookkeeping hu
  have htransact := hostStep_of_next hu
  rw [ho] at htransact
  refine ⟨u, o, htransact, ho, hkeys, hinputs, hdraws, hbase, fun i t hrun hfetch hexec ht => ?_⟩
  have hstep := step_of_fetches_running (s := withStepInput s ticks rnd) hrun hfetch hexec ht
  obtain rfl := Host.Outcome.next.inj (hu.symm.trans hstep)
  obtain ⟨-, -, htinputs, -⟩ := execWritesOnlyItsFootprint i _ t hexec
  have hticks : t.ticks = ticks := by rw [State.ticks, htinputs]
  refine ⟨(Option.some.inj ho).symm, ?_, ?_, fun p hp => ?_, rfl⟩
  · exact (decayed_toNat t.dt t.ticks).trans (by rw [hticks])
  · exact (decayed_toNat t.st t.ticks).trans (by rw [hticks])
  · cases p with
    | dt => exact absurd (.inl rfl) hp
    | st => exact absurd (.inr rfl) hp
    | _ => rfl

end Sys2Proof

/-! What no step observes (spec/10_state.md R23, R25, R27): a relation between two states that agree in all a step
reads, kept by every update a step is made of, is kept by the step; and each of the three relations is such a one. -/

namespace Sys2Proof

open Machine Safety

/-! ### States that agree in all that a step reads -/

/-- The two states agree in all that a step reads, but for the stack, which only a return reads, and I, which a step
reads through effective addresses and in its own sum. -/
structure ReadsAlike (s t : State) : Prop where
  mem : t.mem = s.mem
  v : t.v = s.v
  ea : ∀ k, t.ea k = s.ea k
  pc : t.pc = s.pc
  sp : t.sp = s.sp
  dt : t.dt = s.dt
  fb : t.fb = s.fb
  keys : t.keys = s.keys
  fault : t.fault = s.fault
  fontBase : t.fontBase = s.fontBase
  inputs : t.inputs = s.inputs
  draws : t.draws = s.draws

section

variable {s t : State} (h : ReadsAlike s t)

include h

theorem ReadsAlike.reg (x : Reg) : t.reg x = s.reg x := by
  rw [State.reg, State.reg, h.v]

theorem ReadsAlike.readByte (a : Nat) : t.readByte a = s.readByte a := by
  rw [State.readByte, State.readByte, h.mem, h.fontBase]

theorem ReadsAlike.keyDown (k : Fin 16) : t.keyDown k = s.keyDown k := by
  rw [State.keyDown, State.keyDown, h.keys]

theorem ReadsAlike.rnd : t.rnd = s.rnd := by
  rw [State.rnd, State.rnd, h.inputs, h.draws]

theorem ReadsAlike.hostKeys : t.hostKeys = s.hostKeys := by
  rw [State.hostKeys, State.hostKeys, h.inputs, h.draws]

theorem ReadsAlike.glyphAddr (d : Fin 16) : t.glyphAddr d = s.glyphAddr d := by
  rw [State.glyphAddr, State.glyphAddr, h.fontBase]

theorem ReadsAlike.fetchInBounds : t.fetchInBounds = s.fetchInBounds := by
  rw [State.fetchInBounds, State.fetchInBounds, h.pc]

theorem ReadsAlike.fetchWord : t.fetchWord = s.fetchWord := by
  rw [State.fetchWord, State.fetchWord, h.pc, h.readByte, h.readByte]

theorem ReadsAlike.sprite (x0 y0 n : Nat) : t.sprite x0 y0 n = s.sprite x0 y0 n := by
  induction n with
  | zero => rw [State.sprite, State.sprite, h.fb]
  | succ n ih => rw [State.sprite, State.sprite, ih, h.readByte, h.ea]

theorem ReadsAlike.storeBlock_mem (n : Nat) : (t.storeBlock n).mem = (s.storeBlock n).mem := by
  induction n with
  | zero => exact h.mem
  | succ n ih =>
    have hbase : (t.storeBlock n).fontBase = (s.storeBlock n).fontBase := by
      rw [t.storeBlock_eq, s.storeBlock_eq]
      exact h.fontBase
    rw [State.storeBlock, State.storeBlock, State.writeByte_mem, State.writeByte_mem, ih, hbase, h.ea, h.reg]

theorem ReadsAlike.loadBlock_v (n : Nat) : (t.loadBlock n).v = (s.loadBlock n).v := by
  induction n with
  | zero => exact h.v
  | succ n ih => rw [State.loadBlock, State.loadBlock, State.setReg_v, State.setReg_v, ih, h.readByte, h.ea]

end

/-! ### From the updates to the step -/

/-- A relation between states that agree in all that a step reads, kept by every update that a step is made of. -/
structure KeptByUpdates (R : State → State → Prop) : Prop where
  alike : ∀ {s t}, R s t → ReadsAlike s t
  withMem : ∀ {s t}, R s t → ∀ m, R { s with mem := m } { t with mem := m }
  withV : ∀ {s t}, R s t → ∀ v, R { s with v := v } { t with v := v }
  withFb : ∀ {s t}, R s t → ∀ fb, R { s with fb := fb } { t with fb := fb }
  withKeys : ∀ {s t}, R s t → ∀ keys, R { s with keys := keys } { t with keys := keys }
  setPc : ∀ {s t}, R s t → ∀ w, R (s.setPc w) (t.setPc w)
  setI : ∀ {s t}, R s t → ∀ w, R (s.setI w) (t.setI w)
  addToI : ∀ {s t}, R s t → ∀ w, R (s.setI (s.i + w)) (t.setI (t.i + w))
  setDt : ∀ {s t}, R s t → ∀ b, R (s.setDt b) (t.setDt b)
  setSt : ∀ {s t}, R s t → ∀ b, R (s.setSt b) (t.setSt b)
  popPc : ∀ {s t}, R s t → ∀ hs ht, R (s.popPc hs) (t.popPc ht)
  pushPc : ∀ {s t}, R s t → ∀ hs ht, R (s.pushPc hs) (t.pushPc ht)
  raise : ∀ {s t}, R s t → ∀ f, R (s.raise f) (t.raise f)
  finish : ∀ {s t}, R s t → ∀ o, R (s.finish o) (t.finish o)
  useInputs : ∀ {s t}, R s t → R s.useInputs t.useInputs

section

variable {R : State → State → Prop} (hR : KeptByUpdates R) {s t : State} (h : R s t)

include hR h

theorem KeptByUpdates.setReg (x : Reg) {b b' : Byte} (hb : b' = b) : R (s.setReg x b) (t.setReg x b') := by
  rw [State.setReg, State.setReg, (hR.alike h).v, hb]
  exact hR.withV h _

theorem KeptByUpdates.setResultAndFlag (x : Reg) {r r' : Byte} {f f' : Bool} (hr : r' = r) (hf : f' = f) :
    R (s.setResultAndFlag x r f) (t.setResultAndFlag x r' f') :=
  hR.setReg (hR.setReg h x hr) regVF (congrArg flagByte hf)

theorem KeptByUpdates.skipIf {c c' : Bool} (hc : c' = c) : R (s.skipIf c) (t.skipIf c') := by
  rw [State.skipIf_eq, State.skipIf_eq, (hR.alike h).pc, hc]
  exact hR.setPc h _

theorem KeptByUpdates.advance : R s.advance t.advance := hR.skipIf (c := true) h rfl

theorem KeptByUpdates.hostTurn : R s.hostTurn t.hostTurn := by
  rw [State.hostTurn, State.hostTurn, (hR.alike h).hostKeys]
  exact hR.withKeys h _

theorem KeptByUpdates.exec_ldBcd (x : Reg) :
    ∃ s' t', exec (.ldBcd x) s = .next s' ∧ exec (.ldBcd x) t = .next t' ∧ R s' t' := by
  have ha := hR.alike h
  refine ⟨_, { t with mem := _ }, rfl, ?_, hR.withMem h _⟩
  rw [exec, execLdBcd, ha.reg, ha.ea, ha.ea, ha.ea]
  simp only [State.writeByte, ha.mem, ha.fontBase]

theorem KeptByUpdates.storeBlock (n : Nat) : R (s.storeBlock n) (t.storeBlock n) := by
  rw [s.storeBlock_eq, t.storeBlock_eq, (hR.alike h).storeBlock_mem]
  exact hR.withMem h _

theorem KeptByUpdates.loadBlock (n : Nat) : R (s.loadBlock n) (t.loadBlock n) := by
  rw [s.loadBlock_eq, t.loadBlock_eq, (hR.alike h).loadBlock_v]
  exact hR.withV h _

/-- Every instruction keeps the relation: it is made of the updates, with arguments that the two states agree in. -/
theorem KeptByUpdates.exec (i : Instr) : ∃ s' t', exec i s = .next s' ∧ exec i t = .next t' ∧ R s' t' := by
  have ha := hR.alike h
  cases i with
  | cls => exact ⟨_, _, rfl, rfl, hR.withFb h _⟩
  | ret =>
    by_cases hs : 0 < s.sp.val
    · have ht : 0 < t.sp.val := ha.sp.symm ▸ hs
      exact ⟨_, _, exec_ret_of_pos hs, exec_ret_of_pos ht, hR.popPc h hs ht⟩
    · have hs0 : s.sp.val = 0 := by omega
      exact ⟨_, _, exec_ret_of_zero hs0, exec_ret_of_zero (ha.sp.symm ▸ hs0), hR.raise h _⟩
  | call nnn =>
    by_cases hs : s.sp.val < 16
    · have ht : t.sp.val < 16 := ha.sp.symm ▸ hs
      exact ⟨_, _, exec_call_of_lt nnn hs, exec_call_of_lt nnn ht, hR.setPc (hR.pushPc h hs ht) _⟩
    · have hs16 : s.sp.val = 16 := by omega
      exact ⟨_, _, exec_call_of_full nnn hs16, exec_call_of_full nnn (ha.sp.symm ▸ hs16), hR.raise h _⟩
  | jp nnn => exact ⟨_, _, rfl, rfl, hR.setPc h _⟩
  | jpV0 nnn =>
    refine ⟨_, _, rfl, rfl, ?_⟩
    rw [ha.reg]
    exact hR.setPc h _
  | seImm | sneImm | seReg | sneReg => exact ⟨_, _, rfl, rfl, hR.skipIf h (by simp only [ha.reg])⟩
  | skp | sknp => exact ⟨_, _, rfl, rfl, hR.skipIf h (by simp only [ha.reg, ha.keyDown])⟩
  | ldImm x nn => exact ⟨_, _, rfl, rfl, hR.setReg h x rfl⟩
  | addImm x | ldReg x | orReg x | andReg x | xorReg x =>
    exact ⟨_, _, rfl, rfl, hR.setReg h x (by simp only [ha.reg])⟩
  | rnd x nn => exact ⟨_, _, rfl, rfl, hR.setReg h x (by rw [ha.rnd])⟩
  | ldFromDt x => exact ⟨_, _, rfl, rfl, hR.setReg h x ha.dt⟩
  | addReg x | sub x | shr x | subn x | shl x =>
    exact ⟨_, _, rfl, rfl, hR.setResultAndFlag h x (by simp only [ha.reg]) (by simp only [ha.reg])⟩
  | ldI nnn => exact ⟨_, _, rfl, rfl, hR.setI h _⟩
  | addI x =>
    refine ⟨_, _, rfl, rfl, ?_⟩
    rw [ha.reg]
    exact hR.addToI h _
  | ldFont x =>
    refine ⟨_, _, rfl, rfl, ?_⟩
    rw [ha.reg, ha.glyphAddr]
    exact hR.setI h _
  | drw x y n =>
    refine ⟨_, _, rfl, rfl, ?_⟩
    rw [ha.reg, ha.reg, ha.sprite]
    exact hR.setReg (hR.withFb h _) regVF rfl
  | ldKey x =>
    have hkeys := congrArg lowestKey ha.keys
    cases hk : lowestKey s.keys with
    | none =>
      refine ⟨_, _, exec_ldKey_of_none x hk, exec_ldKey_of_none x (hkeys.trans hk), ?_⟩
      rw [ha.pc]
      exact hR.setPc h _
    | some k => exact ⟨_, _, exec_ldKey_of_some x hk, exec_ldKey_of_some x (hkeys.trans hk), hR.setReg h x rfl⟩
  | ldDt x =>
    refine ⟨_, _, rfl, rfl, ?_⟩
    rw [ha.reg]
    exact hR.setDt h _
  | ldSt x =>
    refine ⟨_, _, rfl, rfl, ?_⟩
    rw [ha.reg]
    exact hR.setSt h _
  | ldBcd x => exact hR.exec_ldBcd h x
  | storeRegs x => exact ⟨_, _, rfl, rfl, hR.storeBlock h _⟩
  | loadRegs x => exact ⟨_, _, rfl, rfl, hR.loadBlock h _⟩

theorem KeptByUpdates.endExec : R s.endExec t.endExec := by
  have hfault := (hR.alike h).fault
  cases hs : s.fault with
  | none =>
    rw [State.endExec_of_running hs, State.endExec_of_running (hfault.trans hs)]
    exact hR.useInputs (hR.finish h .ok)
  | some f =>
    rw [State.endExec_of_fatal hs, State.endExec_of_fatal (hfault.trans hs)]
    exact hR.useInputs h

/-- The step of related states: the same way to the next state, which are related. -/
theorem KeptByUpdates.step {s' : State} (hstep : step s = .next s') : ∃ t', Machine.step t = .next t' ∧ R s' t' := by
  have ha := hR.alike h
  have hturn := hR.hostTurn h
  obtain ⟨hf, ⟨hb, rfl⟩ | ⟨hb, ⟨e, hd⟩, rfl⟩ | ⟨hb, i, u, hd, hexec, rfl⟩⟩ := step_next_cases hstep
  all_goals
    have hf' := ha.fault.trans hf
    have hb' := ha.fetchInBounds.trans hb
  · exact ⟨_, step_of_outOfBounds hf' hb', hR.useInputs (hR.raise hturn _)⟩
  · refine ⟨_, step_of_unknown hf' hb' (ha.fetchWord.symm ▸ hd), ?_⟩
    rw [ha.fetchWord, ha.pc]
    exact hR.useInputs (hR.finish (hR.advance hturn) _)
  · obtain ⟨u', v, hu', hv, huv⟩ := hR.exec (hR.advance hturn) i
    obtain rfl := Host.Outcome.next.inj (hexec.symm.trans hu')
    exact ⟨_, step_of_exec hf' hb' (ha.fetchWord.symm ▸ hd) hv, hR.endExec huv⟩

end

/-! ### The upper four bits of I -/

theorem sameButUpperI_iff (s t : State) :
    SameButUpperI s t ↔ ∃ w, s.i.toNat % 4096 = w.toNat % 4096 ∧ t = { s with i := w } :=
  ⟨fun ⟨hi, ht⟩ => ⟨t.i, hi, ht.symm⟩, fun ⟨_, hi, ht⟩ => ht ▸ ⟨hi, rfl⟩⟩

/-- Effective addresses are taken modulo 4096 (R52), so they agree. -/
theorem ea_withI {s : State} {w : Word} (hi : s.i.toNat % 4096 = w.toNat % 4096) (k : Nat) :
    { s with i := w }.ea k = s.ea k := by
  simp only [State.ea, Config.memSize]
  omega

theorem add_mod_congr {p q : Word} (w : Word) (h : p.toNat % 4096 = q.toNat % 4096) :
    (p + w).toNat % 4096 = (q + w).toNat % 4096 := by
  rw [BitVec.toNat_add, BitVec.toNat_add]
  omega

theorem sameButUpperI_keptByUpdates : KeptByUpdates SameButUpperI := by
  constructor <;> intro s t h <;> obtain ⟨w, hi, rfl⟩ := (sameButUpperI_iff s t).mp h
  case alike => exact ⟨rfl, rfl, ea_withI hi, rfl, rfl, rfl, rfl, rfl, rfl, rfl, rfl, rfl⟩
  case setI => exact fun _ => ⟨rfl, rfl⟩
  case addToI => exact fun z => ⟨add_mod_congr z hi, rfl⟩
  case useInputs => exact ⟨hi, rfl⟩
  case popPc | pushPc => exact fun _ _ => ⟨hi, rfl⟩
  all_goals exact fun _ => ⟨hi, rfl⟩

/-- Settles O57 (R23, decision D12): I is used only through effective addresses, and the low bits of a sum come from
the low bits of its terms. -/
theorem upperIndexBitsAreUnobservable : Obligations.UpperIndexBitsAreUnobservable := fun _ _ _ h =>
  sameButUpperI_keptByUpdates.step h

/-! ### Dead stack entries -/

theorem sameButDeadStack_iff (s t : State) :
    SameButDeadStack s t ↔
      ∃ σ : Vector Word 16, (∀ k : Fin 16, k.val < s.sp.val → s.stackAt k = σ[k.val]) ∧ t = { s with stack := σ } :=
  ⟨fun ⟨hlive, ht⟩ => ⟨t.stack, hlive, ht.symm⟩, fun ⟨_, hlive, ht⟩ => ht ▸ ⟨hlive, rfl⟩⟩

/-- A pop reads a live entry, and leaves fewer live. -/
theorem sameButDeadStack_popPc {s : State} {σ : Vector Word 16}
    (hlive : ∀ k : Fin 16, k.val < s.sp.val → s.stackAt k = σ[k.val]) (h : 0 < s.sp.val) :
    SameButDeadStack (s.popPc h) ({ s with stack := σ }.popPc h) := by
  have htop : s.stack[s.sp.val - 1]'(by omega) = σ[s.sp.val - 1]'(by omega) :=
    hlive ⟨s.sp.val - 1, by omega⟩ (by simp only; omega)
  refine ⟨fun k hk => hlive k ?_, ?_⟩
  · simp only [State.popPc_sp] at hk
    omega
  · simp only [State.popPc, htop]

/-- A push makes the entry at SP live, with the same PC in both. -/
theorem sameButDeadStack_pushPc {s : State} {σ : Vector Word 16}
    (hlive : ∀ k : Fin 16, k.val < s.sp.val → s.stackAt k = σ[k.val]) (h : s.sp.val < 16) :
    SameButDeadStack (s.pushPc h) ({ s with stack := σ }.pushPc h) := by
  refine ⟨fun k hk => ?_, rfl⟩
  simp only [State.pushPc_sp] at hk
  rw [State.stackAt_pushPc, State.stackAt_pushPc]
  split_ifs with hksp
  · rfl
  · exact hlive k (by omega)

theorem sameButDeadStack_keptByUpdates : KeptByUpdates SameButDeadStack := by
  constructor <;> intro s t h <;> obtain ⟨σ, hlive, rfl⟩ := (sameButDeadStack_iff s t).mp h
  case alike => exact ⟨rfl, rfl, fun _ => rfl, rfl, rfl, rfl, rfl, rfl, rfl, rfl, rfl, rfl⟩
  case popPc => exact fun hs _ => sameButDeadStack_popPc hlive hs
  case pushPc => exact fun hs _ => sameButDeadStack_pushPc hlive hs
  case useInputs => exact ⟨hlive, rfl⟩
  all_goals exact fun _ => ⟨hlive, rfl⟩

/-- Settles O58 (R25): a return reads the top live entry, and nothing else reads the stack. -/
theorem deadStackEntriesAreUnobservable : Obligations.DeadStackEntriesAreUnobservable := fun _ _ _ h =>
  sameButDeadStack_keptByUpdates.step h

/-! ### The sound timer -/

theorem sameButSound_keptByUpdates : KeptByUpdates SameButSound := by
  constructor <;> intro s t h <;> obtain ⟨b, rfl⟩ : ∃ b, t = { s with st := b } := ⟨t.st, h.symm⟩
  case alike => exact ⟨rfl, rfl, fun _ => rfl, rfl, rfl, rfl, rfl, rfl, rfl, rfl, rfl, rfl⟩
  case useInputs => rfl
  case popPc | pushPc => exact fun _ _ => rfl
  all_goals exact fun _ => rfl

/-- Settles O59 (R27, decision D3): no meaning reads ST, and its decay and its load write ST alone. -/
theorem soundTimerIsReadByNoInstruction : Obligations.SoundTimerIsReadByNoInstruction := fun _ _ _ h =>
  sameButSound_keptByUpdates.step h

end Sys2Proof
